-- ==== Sys2Proof/Word.lean ====
section
/-! DEFINITION. The stored character and the 16-bit word of the SG450. -/

namespace Sys2Proof

/-- One stored 8-bit value (spec/00_scope.md, Table 0-5: character). -/
abbrev Chr := BitVec 8

/-- A 16-bit value that wraps: a stamp, an opening sequence, a CRC, a two-character number. -/
abbrev Word16 := BitVec 16

end Sys2Proof
end

