-- ==== Sys2Proof/Config.lean ====
section
/-! DEFINITION. The sizes the chip fixes. The spec leaves no result of an operation undefined, so there is no free
value here. -/

namespace Sys2Proof.Config

/-- General descriptors and descriptor 0 (R78). -/
abbrev descriptorCount : Nat := 48

/-- Cells of the pool (R76). -/
abbrev cellCount : Nat := 128

/-- Characters of one cell (R76). -/
abbrev cellSize : Nat := 32

/-- Characters of a telegram of full length (R81). -/
abbrev maxTelegram : Nat := 256

/-- Places of a transmit queue (R94). -/
abbrev queueSize : Nat := 16

/-- Places of the trunk queue open to entries that do not name descriptor 0 (R42). -/
abbrev trunkOrdinary : Nat := 15

/-- Records of the exchange table (R49). -/
abbrev exchangeCount : Nat := 16

/-- Entries of one route bank (R1). -/
abbrev bankSize : Nat := 128

/-- Records of the Notice Queue (R164). -/
abbrev noticeCount : Nat := 32

/-- The value at which a counter stays (R161, R130). -/
abbrev counterMax : Nat := 65535

end Sys2Proof.Config
end

