-- ==== Sys2Proof/Syntax.lean ====
section
/-! DEFINITION. The commands and events of the SG450: one constructor for each row of spec/opcode_table.json. -/

namespace Sys2Proof

/-- The five ports, numbered 0 to 4 in this order (spec/00_scope.md, Conventions). -/
inductive Port where
  | trunk | b1 | b2 | b3 | b4
deriving DecidableEq, Repr

/-- The error of a character report (R143, Table 7-4). -/
inductive CharError where
  | parity | framing | brk
deriving DecidableEq, Repr

/-- The two physical route banks (R4). -/
inductive BankId where
  | first | second
deriving DecidableEq, Repr

/-- The seventeen kinds of notice (R165, Table 9-2). -/
inductive NoticeKind where
  | lineError | overlength | poolExhausted | descriptorExhausted | routeMiss | destOmitted | allowanceRetired
  | allowanceReloaded | exchangeClosed | lateReply | standinLost | txAbandoned | purged | portFaulted | restarted
  | mgmtRejected | mgmtOverrun
deriving DecidableEq, Repr

/-- A command or event of the block. A management command carries the sequence number of its request and the
characters of its parameters as the trunk master sends them, in range or not (Table 10-6). -/
inductive Instr where
  /-- COLD_RESET: RSTN or power-on, with the levels on the MADDR and TBAUD straps. -/
  | coldReset (maddr : BitVec 4) (tbaud : BitVec 2)
  /-- CHARACTER_REPORT: one report of port `p`'s character receiver (Table 7-4). -/
  | characterReport (p : Port) (value : Chr) (marker parityBit : Bool) (error : Option CharError)
  | echoMissing (p : Port)
  | endGap (p : Port)
  /-- TELEGRAM_COMPLETION: the oldest completion raised by port `p` and not yet taken. -/
  | telegramCompletion (p : Port)
  | countReport (bank : BankId) (p : Port) (address : Chr)
  | lineRelease (p : Port)
  | backoffEnd (p : Port)
  | attemptCompletion (p : Port)
  /-- DEADLINE_EXPIRY of the record on the pair (target port, line address). -/
  | deadlineExpiry (p : Port) (line : Chr)
  /-- LINGER_EXPIRY of the record on the pair (target port, line address). -/
  | lingerExpiry (p : Port) (line : Chr)
  | spaceHeld (p : Port)
  | stuckFault (p : Port)
  | trunkBreak
  | validationStep
  | reseedCopy
  | noticePost (kind : NoticeKind) (port : Option Port) (address : Option Chr) (detail : Option Word16)
  /-- MGMT_REQUEST: the oldest request handed to the Management Agent. -/
  | mgmtRequest
  | status (seq : Chr)
  | forwarding (seq value : Chr)
  | portRead (seq port : Chr)
  /-- PORT_FORMAT: the port, then the format record of Table 10-10. -/
  | portFormat (seq : Chr) (params : List Chr)
  | enable (seq port : Chr)
  | disable (seq port : Chr)
  | recover (seq port : Chr)
  | purge (seq port : Chr)
  | countersClear (seq port : Chr)
  /-- ROUTE_WRITE: the route entry record of Table 10-9, its two-character numbers as one. -/
  | routeWrite (seq port address dests flags egress : Chr) (window count reload : Word16)
  | routeDelete (seq port address : Chr)
  | routeRead (seq bank port address : Chr)
  | routeList (seq bank port address : Chr)
  | tableCommit (seq : Chr)
  | tableDiscard (seq : Chr)
  | routeRearm (seq port address : Chr)
  | exchangeList (seq : Chr)
  | noticeRead (seq maximum : Chr)
  /-- SETTINGS_WRITE: the settings record of Table 10-15. -/
  | settingsWrite (seq : Chr) (record : List Chr)
  | settingsRead (seq : Chr)
  | restart (seq value : Chr)
  | markToSpaceEdge (p : Port)
  | returnOfMark (p : Port)
  | falseStart (p : Port)
  | driverEnableRelease (p : Port)
deriving DecidableEq, Repr

end Sys2Proof
end

