-- ==== Sys2Proof/Machine/Blocks.lean ====
section
/-! DEFINITION. The state each kind of block owns (spec/00_scope.md, Table 0-2), as plain data. -/

namespace Sys2Proof.Machine

/-- One value for each of the five ports. -/
structure PerPort (α : Type) where
  trunk : α
  b1 : α
  b2 : α
  b3 : α
  b4 : α
deriving DecidableEq, Repr

/-- The number of a general descriptor or of descriptor 0 (R78). -/
abbrev DescNo := Fin Config.descriptorCount

/-- The number of a cell of the pool (R76). -/
abbrev CellNo := Fin Config.cellCount

/-- Mark is the idle level of a line and space the active one (R139). -/
inductive Level where
  | mark | space
deriving DecidableEq, Repr

/-! ### The format record (R149, Table 8-1) -/

inductive DataWidth where
  | seven | eight
deriving DecidableEq, Repr

inductive Parity where
  | noParity | even | odd
deriving DecidableEq, Repr

inductive StopBits where
  | one | two
deriving DecidableEq, Repr

inductive Framing where
  | idleLine | addressBit
deriving DecidableEq, Repr

inductive MissPolicy where
  | drop | dropNote | passToTrunk
deriving DecidableEq, Repr

/-- The set of line settings of one port (Table 8-1). -/
structure FormatRecord where
  width : DataWidth
  parity : Parity
  stopBits : StopBits
  framing : Framing
  pattern : List Nat
  endGap : Nat
  guardGap : Nat
  overlap : Nat
  retryLimit : Nat
  abandonLimit : Nat
  stuckLimit : Nat
  miss : MissPolicy
deriving DecidableEq, Repr

/-! ### The pool (chapter 4) -/

/-- The first fault recorded against a telegram (R82). -/
inductive Damage where
  | parity | framing | brk | overlength | shortfall | late
deriving DecidableEq, Repr

inductive DescState where
  | free | receiving | held | mgmtReply
deriving DecidableEq, Repr

/-- The record of one stored telegram (Table 4-1). -/
structure Descriptor where
  state : DescState
  arrival : Port
  address : Chr
  length : Nat
  cells : List CellNo
  wide : Bool
  damage : Option Damage
  refs : Nat
deriving DecidableEq, Repr

/-- The Cell Pool and Descriptor Table. `cells` lists the stored characters by address 32c + k for character k of
cell c; `free` is the general free list, a set held in rising order (R76). -/
structure Pool where
  cells : List Host.Cell
  free : List CellNo
  descriptors : Vector Descriptor Config.descriptorCount
deriving DecidableEq, Repr

/-! ### The route table (chapter 1) -/

inductive AllowanceMode where
  | retire | reload
deriving DecidableEq, Repr

structure Allowance where
  count : Nat
  reload : Nat
  mode : AllowanceMode
deriving DecidableEq, Repr

/-- The reply field of a route entry (Table 1-1). -/
structure ReplySpec where
  window : Nat
  standIn : Bool
deriving DecidableEq, Repr

/-- One route entry (Table 1-1). -/
structure RouteEntry where
  arrival : Port
  address : Chr
  destinations : PerPort Bool
  egress : Option Chr
  reply : Option ReplySpec
  allowance : Option Allowance
  retired : Bool
deriving DecidableEq, Repr

/-- The shadow state (R5, Table 1-3). -/
inductive ShadowState where
  | clean | edited | validating | reseeding | stale
deriving DecidableEq, Repr

/-- A count report sent by the Admission Unit and not yet taken (R46). -/
structure CountReport where
  bank : BankId
  port : Port
  address : Chr
deriving DecidableEq, Repr

/-- The Route Table Unit (R4). A position is a place in key order, counted from 0; what it holds outside VALIDATING or
RESEEDING is the model's choice (entry 30). -/
structure RouteUnit where
  first : List RouteEntry
  second : List RouteEntry
  active : BankId
  shadow : ShadowState
  validatePos : Nat
  reseedPos : Nat
  countReports : List CountReport
deriving DecidableEq, Repr

/-! ### Exchanges (chapter 3) -/

inductive ExchangeState where
  | sending | awaiting | answering | lapsed
deriving DecidableEq, Repr

/-- One exchange record (Table 3-1). -/
structure ExchangeRecord where
  target : Port
  line : Chr
  origin : Port
  originAddress : Chr
  window : Nat
  standIn : Bool
  state : ExchangeState
  remaining : Nat
  request : Option DescNo
  lateHold : Bool
  seq : Word16
deriving DecidableEq, Repr

/-- The Exchange Monitor. The records stand in the order in which they were opened (entry 20). -/
structure ExchangeMonitor where
  records : List ExchangeRecord
  nextSeq : Word16
  tickCount : Nat
deriving DecidableEq, Repr

/-! ### Notices (chapter 9) -/

/-- One notice record (Table 9-1). -/
structure Notice where
  stamp : Word16
  kind : NoticeKind
  port : Option Port
  address : Option Chr
  detail : Option Word16
deriving DecidableEq, Repr

structure NoticeQueue where
  records : List Notice
  nextStamp : Word16
deriving DecidableEq, Repr

/-! ### Transmit Schedulers (chapter 5) -/

/-- The exchange request a queue entry may carry (Table 5-1). -/
structure ExchangeRequest where
  origin : Port
  originAddress : Chr
  window : Nat
  standIn : Bool
deriving DecidableEq, Repr

structure QueueEntry where
  desc : DescNo
  line : Chr
  request : Option ExchangeRequest
deriving DecidableEq, Repr

/-- The scheduler state (Table 5-3). -/
inductive Phase where
  | empty | headHeld | reserved | onLine | backoff
deriving DecidableEq, Repr

/-- A Transmit Scheduler and its queue (R94, R96). -/
structure Scheduler where
  queue : List QueueEntry
  phase : Phase
  attempts : Nat
  backoffGap : Nat
  abandons : Nat
deriving DecidableEq, Repr

/-! ### Line Ports (chapters 6 to 8) -/

inductive AdminState where
  | disabled | active | faulted
deriving DecidableEq, Repr

inductive FaultReason where
  | stuck | contention
deriving DecidableEq, Repr

/-- The receiver states and what each holds (Table 6-2). -/
inductive Receiver where
  | off
  | settling
  | idle
  | inTelegram (d : DescNo) (storing : Bool)
  | discarding (address : Chr) (length : Nat)
  | echo (position : Nat)
deriving DecidableEq, Repr

/-- The line-monitor states (Table 6-6). -/
inductive LineMonitor where
  | released | busy | spaceHeld
deriving DecidableEq, Repr

/-- The character receiver (Table 7-2). In a character it holds the format read at the start edge, the bit it is in,
the ticks since that bit's first, and the levels sampled so far, first bit first (R140, R141). -/
inductive CharReceiver where
  | awaitMark
  | awaitStart
  | inCharacter (fmt : FormatRecord) (bit tick : Nat) (samples : List Level)
deriving DecidableEq, Repr

/-- The character transmitter. While it sends it holds the format read at the attempt's start, the place of the
character in the telegram, the levels of that character's bits, the bit and tick it is in, and whether the attempt
has been cut (R145, R146, R147). -/
inductive Transmitter where
  | rest
  | sending (fmt : FormatRecord) (index : Nat) (levels : List Level) (bit tick : Nat) (cut : Bool)
deriving DecidableEq, Repr

/-- A telegram completion (Table 2-1). -/
structure Completion where
  address : Chr
  desc : Option DescNo
  length : Nat
  wide : Bool
  damage : Option Damage
deriving DecidableEq, Repr

/-- The four counters of a port (R161). -/
structure Counters where
  rxTelegrams : Nat
  rxDiscarded : Nat
  txTelegrams : Nat
  collisions : Nat
deriving DecidableEq, Repr

/-- One Line Port with its Transmit Scheduler. -/
structure PortState where
  format : FormatRecord
  admin : AdminState
  lastFault : Option FaultReason
  receiver : Receiver
  monitor : LineMonitor
  rxPin : Level
  markSpan : Nat
  charTail : Nat
  spaceSpan : Nat
  spaceCount : Nat
  limitReached : Bool
  charReceiver : CharReceiver
  transmitter : Transmitter
  completions : List Completion
  counters : Counters
  scheduler : Scheduler
deriving DecidableEq, Repr

inductive BreakState where
  | armed | spent
deriving DecidableEq, Repr

/-- What only the trunk's Line Port holds (R132, R152, R153). -/
structure TrunkState where
  pendingFormat : Option FormatRecord
  pendingDepth : Option Nat
  breakState : BreakState
deriving DecidableEq, Repr

/-! ### The Management Agent (chapter 10) -/

inductive CheckKind where
  | noCheck | sum8 | crc16
deriving DecidableEq, Repr

/-- The settings record (Table 10-15). -/
structure Settings where
  length : Nat
  reasonPos : Nat
  check : CheckKind
  filler : List Chr
  reasonNoAnswer : Chr
  reasonDamaged : Chr
  reasonUnreachable : Chr
  divisor : Nat
  breakLength : Nat
deriving DecidableEq, Repr

inductive RestartKind where
  | warm | cold
deriving DecidableEq, Repr

/-- The pair the replay memory holds, and the pair of an executing command. -/
structure RequestId where
  seq : Chr
  code : Chr
deriving DecidableEq, Repr

/-- The Management Agent (Table 10-1). -/
structure Agent where
  replay : Option RequestId
  executing : Option RequestId
  restartPending : Option RestartKind
  requests : List DescNo
  settings : Settings
  forwarding : Bool
  restartSeen : Bool
deriving DecidableEq, Repr

/-- The strap pins as they stand, and as sampled at the last cold reset (R138, R182). -/
structure Straps where
  maddrPin : BitVec 4
  tbaudPin : BitVec 2
  maddr : BitVec 4
  tbaud : BitVec 2
deriving DecidableEq, Repr

end Sys2Proof.Machine
end

