-- ==== Sys2Proof/Machine/Defaults.lean ====
section
/-! DEFINITION. The values each block takes at a cold reset, and the pacing presets. -/

namespace Sys2Proof.Machine

/-- The preset chosen by the TBAUD straps (R138, Table 7-1). -/
def preset (tbaud : BitVec 2) : List Nat :=
  match tbaud.toNat with
  | 0 => [417, 417, 416]
  | 1 => [208, 208, 209]
  | 2 => [104, 104, 104, 104, 104, 105]
  | _ => [69, 70, 69, 70, 69, 69, 70, 69, 70]

/-- The default format record (R149, Table 8-1) with the given pattern. -/
def defaultFormat (pattern : List Nat) : FormatRecord :=
  { width := .eight, parity := .even, stopBits := .one, framing := .idleLine, pattern := pattern, endGap := 11,
    guardGap := 14, overlap := 1, retryLimit := 3, abandonLimit := 4, stuckLimit := 100, miss := .drop }

/-- The default settings record (R183, Table 10-15). -/
def defaultSettings : Settings :=
  { length := 2, reasonPos := 1, check := .noCheck, filler := List.replicate 8 0x00, reasonNoAnswer := 0xE0,
    reasonDamaged := 0xE1, reasonUnreachable := 0xE2, divisor := 4000, breakLength := 50 }

/-- An empty Transmit Scheduler (R114, Table 5-2). -/
def emptyScheduler : Scheduler :=
  { queue := [], phase := .empty, attempts := 0, backoffGap := 0, abandons := 0 }

def zeroCounters : Counters :=
  { rxTelegrams := 0, rxDiscarded := 0, txTelegrams := 0, collisions := 0 }

/-- A Line Port after a cold reset, its receive pin at `pin` (R114 to R116, R127, R130, R144, R149, R154, R161). -/
def coldPort (fmt : FormatRecord) (admin : AdminState) (receiver : Receiver) (pin : Level) : PortState :=
  { format := fmt, admin := admin, lastFault := none, receiver := receiver, monitor := .busy, rxPin := pin,
    markSpan := 0, charTail := 0, spaceSpan := 0, spaceCount := 0, limitReached := false, charReceiver := .awaitMark,
    transmitter := .rest, completions := [], counters := zeroCounters, scheduler := emptyScheduler }

/-- The trunk is ACTIVE and SETTLING with the strapped preset (R138, R154, R116). -/
def coldTrunk (tbaud : BitVec 2) (pin : Level) : PortState :=
  coldPort (defaultFormat (preset tbaud)) .active .settling pin

/-- A branch is DISABLED and OFF with the 9600 preset (R138, R154, R116). -/
def coldBranch (pin : Level) : PortState :=
  coldPort (defaultFormat (preset 0)) .disabled .off pin

/-- A FREE general descriptor. Its other fields have no meaning (R78) and hold fixed values (DESIGN CHOICE, entry 7). -/
def freeDescriptor : Descriptor :=
  { state := .free, arrival := .trunk, address := 0, length := 0, cells := [], wide := false, damage := none, refs := 0 }

/-- Cells 0 to 7, which stand in descriptor 0's cell list at all times (R76). -/
def replyCells : List CellNo := [0, 1, 2, 3, 4, 5, 6, 7]

/-- The general cells 8 to 127, all free (R93). -/
def generalCells : List CellNo := (List.finRange Config.cellCount).drop 8

/-- Descriptor 0 FREE with its cells (R88, R93). -/
def freeReply : Descriptor := { freeDescriptor with cells := replyCells }

/-- The descriptor table with every descriptor FREE (R93, Table 4-5). -/
def freeDescriptors : Vector Descriptor Config.descriptorCount :=
  (Vector.replicate Config.descriptorCount freeDescriptor).set 0 freeReply

/-- The pool after a restart: all storage free, the stored characters not cleared (R92, R93). -/
def freePool (cells : List Host.Cell) : Pool :=
  { cells := cells, free := generalCells, descriptors := freeDescriptors }

/-- Empty banks, the first active, shadow CLEAN (R4, R26). -/
def coldRoutes : RouteUnit :=
  { first := [], second := [], active := .first, shadow := .clean, validatePos := 0, reseedPos := 0, countReports := [] }

/-- The Management Agent after a cold reset (Table 10-1). -/
def coldAgent : Agent :=
  { replay := none, executing := none, restartPending := none, requests := [], settings := defaultSettings,
    forwarding := false, restartSeen := true }

end Sys2Proof.Machine
end

