-- ==== Sys2Proof/Machine/State.lean ====
section
/-! DEFINITION. The machine's state, the reasons a step can stop, and the state after reset. -/

namespace Sys2Proof.Machine

/-- Everything the spec gives the chip, and the queue of the commands that wait (INVENTORY.md, State). -/
structure State where
  ports : PerPort PortState
  trunk : TrunkState
  pool : Pool
  routes : RouteUnit
  exchanges : ExchangeMonitor
  notices : NoticeQueue
  agent : Agent
  straps : Straps
  pending : List Instr
deriving DecidableEq, Repr

/-- Reasons to stop that the machine itself reports. The spec names none (INVENTORY.md, Faults): a faulted port is a
state of the port and a refused command is answered. -/
inductive Fault where
deriving DecidableEq, Repr

/-- Reasons to refuse a command. -/
inductive Refusal where
  /-- Raised by `exec` alone, for a command that has no meaning in the model yet. Safe: the model stops. -/
  | notModelled (mnemonic : String)
deriving DecidableEq, Repr

/-- The state a cold reset leaves (R4, R26, R35, R50, R75, R93, R114, R116, R127, R130, R132, R144, R149, R154, R161,
R164, R172, R183, R190), with the strap pins, receive pins, stored characters and waiting commands given: a reset
leaves those as they are. The straps are sampled in the same step (R189). -/
def State.cold (maddr : BitVec 4) (tbaud : BitVec 2) (pins : PerPort Level) (cells : List Host.Cell)
    (pending : List Instr) : State :=
  { ports :=
      { trunk := coldTrunk tbaud pins.trunk, b1 := coldBranch pins.b1, b2 := coldBranch pins.b2,
        b3 := coldBranch pins.b3, b4 := coldBranch pins.b4 }
    trunk := { pendingFormat := none, pendingDepth := none, breakState := .spent }
    pool := freePool cells
    routes := coldRoutes
    exchanges := { records := [], nextSeq := 0, tickCount := 0 }
    notices := { records := [], nextStamp := 0 }
    agent := coldAgent
    straps := { maddrPin := maddr, tbaudPin := tbaud, maddr := maddr, tbaud := tbaud }
    pending := pending }

/-- The machine right after power-on: a cold reset with the straps at 0 and every line at mark (DESIGN CHOICE,
entry 5), no stored character (entry 6) and no command waiting. -/
def State.reset : State :=
  State.cold 0 0 { trunk := .mark, b1 := .mark, b2 := .mark, b3 := .mark, b4 := .mark } [] []

end Sys2Proof.Machine
end

