-- ==== Sys2Proof/Machine/Ports.lean ====
section
/-! DEFINITION. Ports by number and by code, and reading and writing one port's state. -/

namespace Sys2Proof

/-- The port's number, as it enters arithmetic and layouts (spec/00_scope.md, Conventions). -/
def Port.number : Port → Nat
  | .trunk => 0 | .b1 => 1 | .b2 => 2 | .b3 => 3 | .b4 => 4

/-- The port a parameter character names, 00h to 04h (Table 10-6). -/
def Port.ofChr (c : Chr) : Option Port :=
  match c.toNat with
  | 0 => some .trunk | 1 => some .b1 | 2 => some .b2 | 3 => some .b3 | 4 => some .b4
  | _ => none

/-- The port's code in a reply. -/
def Port.toChr (p : Port) : Chr := BitVec.ofNat 8 p.number

def Port.isBranch : Port → Bool
  | .trunk => false
  | _ => true

/-- The ports in ascending number. -/
def Port.all : List Port := [.trunk, .b1, .b2, .b3, .b4]

namespace Machine

def PerPort.get {α : Type} (v : PerPort α) : Port → α
  | .trunk => v.trunk | .b1 => v.b1 | .b2 => v.b2 | .b3 => v.b3 | .b4 => v.b4

def PerPort.set {α : Type} (v : PerPort α) (p : Port) (x : α) : PerPort α :=
  match p with
  | .trunk => { v with trunk := x }
  | .b1 => { v with b1 := x }
  | .b2 => { v with b2 := x }
  | .b3 => { v with b3 := x }
  | .b4 => { v with b4 := x }

/-- The state of port `p`. -/
def State.port (s : State) (p : Port) : PortState := s.ports.get p

def State.setPort (s : State) (p : Port) (x : PortState) : State := { s with ports := s.ports.set p x }

/-- Change port `p` by `f` and nothing else. -/
def State.onPort (s : State) (p : Port) (f : PortState → PortState) : State := s.setPort p (f (s.port p))

end Machine
end Sys2Proof
end

