-- ==== Sys2Proof/Machine/Format.lean ====
section
/-! DEFINITION. Characters and bit pacing (chapter 7): the bits of a character, their lengths and sampling points, and
what a character receiver reports. -/

namespace Sys2Proof.Machine

def DataWidth.bits : DataWidth → Nat
  | .seven => 7
  | .eight => 8

def StopBits.bits : StopBits → Nat
  | .one => 1
  | .two => 2

def FormatRecord.hasMarker (f : FormatRecord) : Bool := f.framing = .addressBit

def FormatRecord.hasParity (f : FormatRecord) : Bool := f.parity ≠ .noParity

/-- The place of the first stop bit in a character, the start bit being bit 0 (R139, Table 7-3). -/
def FormatRecord.firstStop (f : FormatRecord) : Nat :=
  1 + f.width.bits + f.hasMarker.toNat + f.hasParity.toNat

/-- The bits of one character, 9 to 13 (R139). -/
def FormatRecord.charBits (f : FormatRecord) : Nat := f.firstStop + f.stopBits.bits

/-- The length in ticks of bit `k`: pattern entry k modulo n (R136). -/
def FormatRecord.entry (f : FormatRecord) (k : Nat) : Nat := f.pattern.getD (k % f.pattern.length) 0

/-- The bit-time is pattern entry 0 (R137). -/
def FormatRecord.bitTime (f : FormatRecord) : Nat := f.entry 0

/-- A span of `g` bit-times, in ticks (R137). -/
def FormatRecord.span (f : FormatRecord) (g : Nat) : Nat := g * f.bitTime

/-- The length of one whole character in ticks (R127). -/
def FormatRecord.charTime (f : FormatRecord) : Nat := ((List.range f.charBits).map f.entry).sum

/-- The sampling point of bit `k`, counted from the bit's first tick (R141). -/
def FormatRecord.samplePoint (f : FormatRecord) (k : Nat) : Nat := f.entry k / 2

/-- What remains of the first stop bit after its sampling point (R142, Table 6-1). -/
def FormatRecord.stopTail (f : FormatRecord) : Nat := f.entry f.firstStop - f.samplePoint f.firstStop

/-- The value as a port of this width stores and sends it: 7-bit ports have seven data bits (R148). -/
def FormatRecord.fit (f : FormatRecord) (c : Chr) : Chr :=
  match f.width with
  | .seven => c &&& 0x7F
  | .eight => c

/-- The data bits of a character, least significant first (R139). -/
def FormatRecord.dataBits (f : FormatRecord) (c : Chr) : List Bool :=
  (List.range f.width.bits).map fun k => c.getLsbD k

/-- The number of 1 bits of a list. -/
def countOnes (bits : List Bool) : Nat := (bits.filter id).length

/-- The parity bit sent, or expected, for a character: it makes the number of 1 bits among the data bits, the marker
bit and itself even under EVEN and odd under ODD (R139). -/
def FormatRecord.parityBit (f : FormatRecord) (c : Chr) (marker : Bool) : Bool :=
  let ones := countOnes (f.dataBits c) + (f.hasMarker && marker).toNat
  match f.parity with
  | .even => ones % 2 = 1
  | .odd => ones % 2 = 0
  | .noParity => false

/-- A bit on the line: mark for 1 and space for 0 (R139). -/
def Level.ofBit (b : Bool) : Level := if b then .mark else .space

def Level.isMark : Level → Bool
  | .mark => true
  | .space => false

/-- The levels of one character in order: start, data, marker, parity and stop bits (R139, R145). -/
def FormatRecord.levels (f : FormatRecord) (c : Chr) (marker : Bool) : List Level :=
  [.space] ++ (f.dataBits c).map Level.ofBit
    ++ (if f.hasMarker then [Level.ofBit marker] else [])
    ++ (if f.hasParity then [Level.ofBit (f.parityBit c marker)] else [])
    ++ List.replicate f.stopBits.bits .mark

/-- The value of data bits given least significant first. -/
def bitsValue : List Bool → Nat
  | [] => 0
  | b :: rest => b.toNat + 2 * bitsValue rest

/-- A character report (Table 7-4). The marker and parity bits are clear where the format has none. -/
structure CharReport where
  value : Chr
  marker : Bool
  parityBit : Bool
  error : Option CharError
deriving DecidableEq, Repr

/-- The report made from the sampled levels, start bit first and first stop bit last (R141, R143). -/
def FormatRecord.report (f : FormatRecord) (samples : List Level) : CharReport :=
  let bits := samples.map Level.isMark
  let data := (bits.drop 1).take f.width.bits
  let marker := f.hasMarker && bits.getD (1 + f.width.bits) false
  let par := f.hasParity && bits.getD (1 + f.width.bits + f.hasMarker.toNat) false
  let stop := bits.getD f.firstStop false
  let value : Chr := BitVec.ofNat 8 (bitsValue data)
  let error : Option CharError :=
    if stop then (if f.hasParity && (par != f.parityBit value marker) then some .parity else none)
    else if countOnes data = 0 && !marker then some .brk
    else some .framing
  { value := value, marker := marker, parityBit := par, error := error }

/-- A report brought to what the format can give (R143, R148; entry 19): seven data bits on a 7-bit port, no marker or
parity bit where the format has none, and value 00h with marker clear for a break. An error that its own value, marker
or parity bit would not give is taken as reported (DESIGN CHOICE, entry 19). -/
def FormatRecord.fitReport (f : FormatRecord) (r : CharReport) : CharReport :=
  match r.error with
  | some .brk => { value := 0, marker := false, parityBit := f.hasParity && r.parityBit, error := r.error }
  | _ => { value := f.fit r.value, marker := f.hasMarker && r.marker, parityBit := f.hasParity && r.parityBit, error := r.error }

/-- FRAMING and BREAK are framing errors (R102, R143). -/
def CharError.isFraming : CharError → Bool
  | .parity => false
  | .framing | .brk => true

/-- The first stop bit was sampled space (R142). -/
def CharReport.stopSpace (r : CharReport) : Bool :=
  match r.error with
  | some e => CharError.isFraming e
  | none => false

/-- The damage an erroneous character gives its telegram (R82). -/
def CharError.damage : CharError → Damage
  | .parity => .parity
  | .framing => .framing
  | .brk => .brk

end Sys2Proof.Machine
end

