-- ==== Sys2Proof/Machine/Storage.lean ====
section
/-! DEFINITION. Telegram storage (chapter 4): the stored characters, cells, descriptors and references. -/

namespace Sys2Proof.Machine

/-! ### Stored characters -/

/-- What a place that nothing has written reads as (DESIGN CHOICE, entry 6; R93: not read before being written). -/
def unwritten : Chr := 0x00

/-- The character at an address of the pool. -/
def readCell : List Host.Cell → Nat → Chr
  | [], _ => unwritten
  | (b, c) :: rest, a => if a = b then c else readCell rest a

/-- An entry of the canonical form, left out where it equals what an unlisted address reads as. -/
def cellEntry (a : Nat) (c : Chr) : List Host.Cell := if c = unwritten then [] else [(a, c)]

/-- Write one character, keeping the canonical form. -/
def writeCell : List Host.Cell → Nat → Chr → List Host.Cell
  | [], a, c => cellEntry a c
  | (b, d) :: rest, a, c =>
    if a < b then cellEntry a c ++ (b, d) :: rest
    else if a = b then cellEntry a c ++ rest
    else (b, d) :: writeCell rest a c

/-- Write a run of characters from an address on. -/
def writeCells (m : List Host.Cell) (a : Nat) : List Chr → List Host.Cell
  | [] => m
  | c :: rest => writeCells (writeCell m a c) (a + 1) rest

/-- The canonical form from an address on: addresses at least `lo`, strictly rising, no entry that reads as unlisted. -/
def cellsWfFrom (lo : Nat) : List Host.Cell → Bool
  | [] => true
  | (a, c) :: rest => decide (lo ≤ a) && decide (c ≠ unwritten) && cellsWfFrom (a + 1) rest

/-- The canonical form of the stored characters: strictly rising addresses, none listed that reads as unlisted. -/
def cellsWf (m : List Host.Cell) : Bool := cellsWfFrom 0 m

/-! ### Cells and descriptors -/

def Pool.descriptor (q : Pool) (d : DescNo) : Descriptor := q.descriptors[d]

def Pool.setDescriptor (q : Pool) (d : DescNo) (x : Descriptor) : Pool :=
  { q with descriptors := q.descriptors.set d x }

/-- Put a cell back on the free list, in rising order (R76). -/
def insertCell (c : CellNo) : List CellNo → List CellNo
  | [] => [c]
  | x :: rest => if c < x then c :: x :: rest else if c = x then x :: rest else x :: insertCell c rest

/-- Take the lowest-numbered cell of the free list (R77). -/
def Pool.takeCell (q : Pool) : Option (CellNo × Pool) :=
  match q.free with
  | [] => none
  | c :: rest => some (c, { q with free := rest })

/-- The lowest-numbered FREE descriptor among 1 to 47 (R79). -/
def Pool.freeDescriptor? (q : Pool) : Option DescNo :=
  (List.finRange Config.descriptorCount).find? fun d => decide (d ≠ 0 ∧ (q.descriptor d).state = .free)

/-- The number of FREE descriptors among 1 to 47 (R91). -/
def Pool.freeDescriptorCount (q : Pool) : Nat :=
  ((List.finRange Config.descriptorCount).filter fun d => decide (d ≠ 0 ∧ (q.descriptor d).state = .free)).length

/-- Make a general descriptor FREE and return its cells (R78). -/
def Pool.release (q : Pool) (d : DescNo) : Pool :=
  { (q.setDescriptor d Sys2Proof.Machine.freeDescriptor) with
    free := (q.descriptor d).cells.foldl (fun free c => insertCell c free) q.free }

/-- The address of character `i` of descriptor `d` (R81), absent where the cell list does not reach it. -/
def Pool.charAddress (q : Pool) (d : DescNo) (i : Nat) : Option Nat :=
  ((q.descriptor d).cells[i / Config.cellSize]?).map fun c => c.val * Config.cellSize + i % Config.cellSize

/-- Character `i` of descriptor `d` as stored (R81). -/
def Pool.charAt (q : Pool) (d : DescNo) (i : Nat) : Chr :=
  match q.charAddress d i with
  | some a => readCell q.cells a
  | none => unwritten

/-- The telegram a descriptor stores. -/
def Pool.telegram (q : Pool) (d : DescNo) : List Chr :=
  (List.range (q.descriptor d).length).map (q.charAt d)

/-- Write character `i` of descriptor `d` in its place. -/
def Pool.putChar (q : Pool) (d : DescNo) (i : Nat) (c : Chr) : Pool :=
  match q.charAddress d i with
  | some a => { q with cells := writeCell q.cells a c }
  | none => q

/-! ### References (R78, R85, R86) -/

/-- One more queue entry names `d` (R85). -/
def Pool.addRef (q : Pool) (d : DescNo) : Pool :=
  q.setDescriptor d { q.descriptor d with refs := (q.descriptor d).refs + 1 }

/-- A queue entry that names `d` has left its queue (R86). A general descriptor whose count reaches 0 becomes FREE;
descriptor 0 stays as it is with count 0 (R89). -/
def Pool.dropRef (q : Pool) (d : DescNo) : Pool :=
  let n := (q.descriptor d).refs - 1
  if n = 0 ∧ d ≠ 0 then q.release d
  else q.setDescriptor d { q.descriptor d with refs := n }

/-- The holder of a RECEIVING descriptor gives up its reference: HELD if entries name it, else FREE (R29, R85). -/
def Pool.giveUp (q : Pool) (d : DescNo) : Pool :=
  let n := (q.descriptor d).refs - 1
  if n = 0 then q.release d
  else q.setDescriptor d { q.descriptor d with refs := n, state := .held }

/-! ### Taking storage during reception (R79 to R83) -/

/-- The descriptor as taken at an address character (R79), with the cells and damage it begins with. -/
def openedDescriptor (p : Port) (address : Chr) (cells : List CellNo) (damage : Option Damage) : Descriptor :=
  { state := .receiving, arrival := p, address := address, length := 1, cells := cells, wide := false,
    damage := damage, refs := 1 }

/-- Take storage for a telegram that begins (R79, R83): the descriptor and whether storing goes on. `damage` is what
the address character brings. No FREE descriptor: nothing (R80). -/
def Pool.openTelegram (q : Pool) (p : Port) (address : Chr) (damage : Option Damage) : Option (DescNo × Bool × Pool) :=
  match q.freeDescriptor? with
  | none => none
  | some d =>
    match q.takeCell with
    | some (c, q') =>
      some (d, true, (q'.setDescriptor d (openedDescriptor p address [c] damage)).putChar d 0 address)
    | none => some (d, false, q.setDescriptor d (openedDescriptor p address [] (damage.or (some .shortfall))))

/-- Record a fault unless one stands already (R82). -/
def Pool.recordDamage (q : Pool) (d : DescNo) (damage : Option Damage) : Pool :=
  q.setDescriptor d { q.descriptor d with damage := (q.descriptor d).damage.or damage }

/-- Store one character after the last, the cell list reaching its place (R81). -/
def Pool.appendChar (q : Pool) (d : DescNo) (c : Chr) : Pool :=
  let x := q.descriptor d
  (q.putChar d x.length c).setDescriptor d { x with length := x.length + 1, wide := x.wide || decide (c.toNat > 0x7F) }

/-- A body character of a telegram still stored (R81, R83, R120): the pool, and whether storing goes on. -/
def Pool.storeBody (q : Pool) (d : DescNo) (c : Chr) : Bool × Pool :=
  let x := q.descriptor d
  if x.length ≥ Config.maxTelegram then (false, q.recordDamage d (some .overlength))
  else if x.length % Config.cellSize = 0 then
    match q.takeCell with
    | none => (false, q.recordDamage d (some .shortfall))
    | some (cell, q') => (true, (q'.setDescriptor d { x with cells := x.cells ++ [cell] }).appendChar d c)
  else (true, q.appendChar d c)

/-! ### The management reply's own storage (R88) -/

/-- Write a reply into cells 0 to 7 and set descriptor 0 to MGMT_REPLY. -/
def Pool.writeReply (q : Pool) (address : Chr) (reply : List Chr) : Pool :=
  ({ q with cells := writeCells q.cells 0 reply }).setDescriptor 0
    { state := .mgmtReply, arrival := .trunk, address := address, length := reply.length, cells := replyCells,
      wide := (reply.drop 1).any fun c => decide (c.toNat > 0x7F), damage := none, refs := 0 }

end Sys2Proof.Machine
end

