-- ==== Sys2Proof/Machine/Crc.lean ====
section
/-! DEFINITION. The CRC-16 of management telegrams and stand-in replies (R174), the SUM8 check (R69), and
two-character numbers. -/

namespace Sys2Proof.Machine

/-- One bit of the CRC: shift left, and where the bit leaving the top differs from the character's, combine with
1021h (R174). -/
def crcBit (reg : Word16) (bit : Bool) : Word16 :=
  if reg.msb != bit then (reg <<< 1) ^^^ 0x1021 else reg <<< 1

/-- One character of the CRC, its bits most significant first (R174). -/
def crcChar (reg : Word16) (c : Chr) : Word16 :=
  [7, 6, 5, 4, 3, 2, 1, 0].foldl (fun r k => crcBit r (c.getLsbD k)) reg

/-- The CRC-16 of a run of characters: initial FFFFh, not inverted (R174). -/
def crc16 (cs : List Chr) : Word16 := cs.foldl crcChar 0xFFFF

/-- The sum of the characters modulo 256 (R69). -/
def sum8 (cs : List Chr) : Chr := cs.foldl (· + ·) 0

def hiChr (w : Word16) : Chr := w.extractLsb' 8 8

def loChr (w : Word16) : Chr := w.extractLsb' 0 8

/-- A two-character number, high character first (R192). -/
def twoChars (w : Word16) : List Chr := [hiChr w, loChr w]

def wordOf (hi lo : Chr) : Word16 := hi ++ lo

/-- A number sent in one character. -/
def natChr (n : Nat) : Chr := BitVec.ofNat 8 n

/-- A number sent in two characters. -/
def natTwo (n : Nat) : List Chr := twoChars (BitVec.ofNat 16 n)

end Sys2Proof.Machine
end

