-- ==== Sys2Proof/Machine/Notices.lean ====
section
/-! DEFINITION. The Notice Queue (chapter 9): posting, draining, and the fields of each kind. -/

namespace Sys2Proof

/-- The code of a notice kind (Table 10-11). -/
def NoticeKind.code : NoticeKind → Chr
  | .lineError => 0x01 | .overlength => 0x02 | .poolExhausted => 0x03 | .descriptorExhausted => 0x04
  | .routeMiss => 0x05 | .destOmitted => 0x06 | .allowanceRetired => 0x07 | .allowanceReloaded => 0x08
  | .exchangeClosed => 0x09 | .lateReply => 0x0A | .standinLost => 0x0B | .txAbandoned => 0x0C | .purged => 0x0D
  | .portFaulted => 0x0E | .restarted => 0x0F | .mgmtRejected => 0x10 | .mgmtOverrun => 0x11

/-- Which of port, address and detail a notice of this kind carries (Table 9-2). -/
def NoticeKind.fields : NoticeKind → Bool × Bool × Bool
  | .lineError | .destOmitted | .allowanceReloaded | .exchangeClosed | .standinLost => (true, true, true)
  | .overlength | .poolExhausted | .descriptorExhausted | .routeMiss | .allowanceRetired | .lateReply
  | .txAbandoned => (true, true, false)
  | .purged | .portFaulted | .mgmtRejected => (true, false, true)
  | .restarted => (false, false, true)
  | .mgmtOverrun => (true, false, false)

namespace Machine

/-- Take one post (R166): the present stamp, the stamp's advance, and the record where there is room. -/
def NoticeQueue.post (q : NoticeQueue) (kind : NoticeKind) (port : Option Port) (address : Option Chr)
    (detail : Option Word16) : NoticeQueue :=
  { records :=
      if q.records.length < Config.noticeCount then q.records ++ [⟨q.nextStamp, kind, port, address, detail⟩]
      else q.records
    nextStamp := q.nextStamp + 1 }

/-- Remove the oldest records, at most `n` (R168). -/
def NoticeQueue.drain (q : NoticeQueue) (n : Nat) : NoticeQueue := { q with records := q.records.drop n }

/-! ### Reasons, with their detail codes (Table 10-11) -/

/-- Why a destination filter leaves a destination out (R41, Table 2-7). -/
inductive OmitReason where
  | portDown | width | queueFull
deriving DecidableEq, Repr

def OmitReason.code : OmitReason → Word16
  | .portDown => 1 | .width => 2 | .queueFull => 3

/-- Why a stand-in reply is lost (R70). -/
inductive LossReason where
  | omitted (r : OmitReason)
  | noDescriptor
  | noCell
deriving DecidableEq, Repr

def LossReason.code : LossReason → Word16
  | .omitted r => r.code
  | .noDescriptor => 4
  | .noCell => 5

/-- The outcomes that post EXCHANGE_CLOSED (R65). -/
inductive CloseOutcome where
  | noAnswer | damaged | unreachable
deriving DecidableEq, Repr

def CloseOutcome.code : CloseOutcome → Word16
  | .noAnswer => 1 | .damaged => 2 | .unreachable => 3

def FaultReason.code : FaultReason → Word16
  | .stuck => 1 | .contention => 2

/-- Why a management request is rejected (R176). -/
inductive RejectReason where
  | check | short | long
deriving DecidableEq, Repr

def RejectReason.code : RejectReason → Word16
  | .check => 1 | .short => 2 | .long => 3

/-- RESTARTED details: WARM_COMMAND and BREAK. -/
def restartedByCommand : Word16 := 1

def restartedByBreak : Word16 := 2

/-- The state after one post. -/
def State.post (s : State) (kind : NoticeKind) (port : Option Port) (address : Option Chr) (detail : Option Word16) :
    State :=
  { s with notices := s.notices.post kind port address detail }

/-- A notice record as NOTICE_READ returns it, 8 characters (Table 10-14, R195). -/
def Notice.chars (n : Notice) : List Chr :=
  twoChars n.stamp
    ++ [n.kind.code, natChr (n.port.isSome.toNat + 2 * n.address.isSome.toNat + 4 * n.detail.isSome.toNat),
        (n.port.map Port.toChr).getD 0, n.address.getD 0]
    ++ twoChars (n.detail.getD 0)

end Machine
end Sys2Proof
end

