-- ==== Sys2Proof/Machine/Routes.lean ====
section
/-! DEFINITION. The Route Table Unit's own operations (chapter 1): keys, banks, lookup, counting, validation, reseed. -/

namespace Sys2Proof

def BankId.other : BankId → BankId
  | .first => .second
  | .second => .first

namespace Machine

/-- The place of a key in key order (R1): by arrival port number, then by address. -/
def keyRank (p : Port) (a : Chr) : Nat := p.number * 256 + a.toNat

def RouteEntry.rank (e : RouteEntry) : Nat := keyRank e.arrival e.address

/-- The effective egress address (section 1.1). -/
def RouteEntry.effectiveEgress (e : RouteEntry) : Chr := e.egress.getD e.address

/-- The destination ports in ascending number. -/
def RouteEntry.destinationList (e : RouteEntry) : List Port := Port.all.filter e.destinations.get

def findEntry (bank : List RouteEntry) (p : Port) (a : Chr) : Option RouteEntry :=
  bank.find? fun e => decide (e.arrival = p ∧ e.address = a)

/-- Put an entry at its place in key order, replacing the entry of its key (R1, R6). -/
def insertEntry (e : RouteEntry) : List RouteEntry → List RouteEntry
  | [] => [e]
  | x :: rest =>
    if e.rank < x.rank then e :: x :: rest
    else if e.rank = x.rank then e :: rest
    else x :: insertEntry e rest

def removeEntry (bank : List RouteEntry) (p : Port) (a : Chr) : List RouteEntry :=
  bank.filter fun e => !decide (e.arrival = p ∧ e.address = a)

/-- Change the entry of one key. -/
def changeEntry (bank : List RouteEntry) (p : Port) (a : Chr) (f : RouteEntry → RouteEntry) : List RouteEntry :=
  bank.map fun e => if e.arrival = p ∧ e.address = a then f e else e

def RouteUnit.bank (r : RouteUnit) : BankId → List RouteEntry
  | .first => r.first
  | .second => r.second

def RouteUnit.setBank (r : RouteUnit) (b : BankId) (es : List RouteEntry) : RouteUnit :=
  match b with
  | .first => { r with first := es }
  | .second => { r with second := es }

/-- The bank that answers lookups (R4). -/
def RouteUnit.activeBank (r : RouteUnit) : List RouteEntry := r.bank r.active

/-- The bank that management edits (R4). -/
def RouteUnit.shadowBank (r : RouteUnit) : List RouteEntry := r.bank r.active.other

def RouteUnit.setActive (r : RouteUnit) (es : List RouteEntry) : RouteUnit := r.setBank r.active es

def RouteUnit.setShadow (r : RouteUnit) (es : List RouteEntry) : RouteUnit := r.setBank r.active.other es

/-- A shadow bank in VALIDATING or RESEEDING is busy (Table 1-4). -/
def RouteUnit.busy (r : RouteUnit) : Bool := r.shadow = .validating ∨ r.shadow = .reseeding

/-! ### Lookup and counting -/

/-- The three answers to a lookup (R19, Table 1-5). -/
inductive Lookup where
  | live (e : RouteEntry) (bank : BankId)
  | retired
  | miss
deriving DecidableEq, Repr

/-- Answer a lookup from the active bank (R14, R19). -/
def RouteUnit.lookup (r : RouteUnit) (p : Port) (a : Chr) : Lookup :=
  match findEntry r.activeBank p a with
  | none => .miss
  | some e => if e.retired then .retired else .live e r.active

/-- What a count report does to an entry, and whether it retires or reloads it. -/
inductive Counted where
  | unchanged
  | counted (e : RouteEntry)
  | retired (e : RouteEntry)
  | reloaded (e : RouteEntry) (reload : Nat)
deriving DecidableEq, Repr

/-- Count one telegram against an entry (R20, R21, R22). -/
def RouteEntry.count (e : RouteEntry) : Counted :=
  match e.allowance with
  | none => .unchanged
  | some al =>
    if e.retired then .unchanged
    else if al.count - 1 > 0 then .counted { e with allowance := some { al with count := al.count - 1 } }
    else
      match al.mode with
      | .retire => .retired { e with allowance := some { al with count := 0 }, retired := true }
      | .reload => .reloaded { e with allowance := some { al with count := al.reload } } al.reload

/-- Set the count to the reload value and the state to LIVE (R23). -/
def RouteEntry.rearm (e : RouteEntry) : RouteEntry :=
  { e with allowance := e.allowance.map (fun al => { al with count := al.reload }), retired := false }

/-! ### Commit and reseed -/

/-- The reasons of CONFLICT (R10, R11). -/
inductive ConflictReason where
  | widthKey | widthEgress
deriving DecidableEq, Repr

def ConflictReason.code : ConflictReason → Chr
  | .widthKey => 0x01
  | .widthEgress => 0x02

/-- Whether an address fits a data width (R10). -/
def DataWidth.fits (w : DataWidth) (a : Chr) : Bool :=
  match w with
  | .seven => decide (a.toNat ≤ 0x7F)
  | .eight => true

/-- The two checks of one entry, against the data widths in force (R10). -/
def RouteEntry.conflict (e : RouteEntry) (width : PerPort DataWidth) : Option ConflictReason :=
  if !(width.get e.arrival).fits e.address then some .widthKey
  else if e.destinationList.all (fun p => (width.get p).fits e.effectiveEgress) then none
  else some .widthEgress

/-- Swap the bank roles; the old active bank, now shadow, is emptied for the reseed (R12, R15). -/
def RouteUnit.swap (r : RouteUnit) : RouteUnit :=
  { (r.setActive []) with active := r.active.other, shadow := .reseeding, reseedPos := 0 }

/-- Start a reseed that belongs to TABLE_DISCARD (R15, R17). -/
def RouteUnit.startReseed (r : RouteUnit) : RouteUnit :=
  { (r.setShadow []) with shadow := .reseeding, reseedPos := 0 }

/-- A reseed with no active entry left to copy has ended (R15). -/
def RouteUnit.reseedDone (r : RouteUnit) : Bool := decide (r.activeBank.length ≤ r.reseedPos)

/-- Copy the next active entry into the shadow bank (R15). The copies arrive in key order, so the entry goes last. -/
def RouteUnit.copyNext (r : RouteUnit) : RouteUnit :=
  match r.activeBank[r.reseedPos]? with
  | some e => { (r.setShadow (r.shadowBank ++ [e])) with reseedPos := r.reseedPos + 1 }
  | none => r

/-- The shadow state across a warm restart (R25, Table 1-6). -/
def ShadowState.afterWarm : ShadowState → ShadowState
  | .clean => .clean
  | .edited => .edited
  | .validating => .edited
  | .reseeding => .stale
  | .stale => .stale

/-- The code of the shadow state in the status character (R5). -/
def ShadowState.code : ShadowState → Nat
  | .clean => 0 | .edited => 1 | .validating => 2 | .reseeding => 3 | .stale => 4

end Machine
end Sys2Proof
end

