-- ==== Sys2Proof/Machine/Exchanges.lean ====
section
/-! DEFINITION. The Exchange Monitor's own operations (chapter 3): pairs, ages, openings, the millisecond, and the
characters of a stand-in reply. -/

namespace Sys2Proof.Machine

/-- SENDING, AWAITING and ANSWERING count against the overlap depth; LAPSED does not (R49). -/
def ExchangeRecord.isOpen (r : ExchangeRecord) : Bool := r.state ≠ .lapsed

def ExchangeRecord.onPair (r : ExchangeRecord) (p : Port) (a : Chr) : Bool := decide (r.target = p ∧ r.line = a)

/-- The age of a record, counted forward to the next opening sequence modulo 65 536 (R50). -/
def ExchangeMonitor.age (m : ExchangeMonitor) (r : ExchangeRecord) : Nat := (m.nextSeq - r.seq).toNat

def ExchangeMonitor.find (m : ExchangeMonitor) (p : Port) (a : Chr) : Option ExchangeRecord :=
  m.records.find? fun r => r.onPair p a

/-- The number of open records that target a port (R49). -/
def ExchangeMonitor.openCount (m : ExchangeMonitor) (p : Port) : Nat :=
  (m.records.filter fun r => decide (r.target = p) && r.isOpen).length

def ExchangeMonitor.removePair (m : ExchangeMonitor) (p : Port) (a : Chr) : ExchangeMonitor :=
  { m with records := m.records.filter fun r => !r.onPair p a }

/-- Change the record of one pair. -/
def ExchangeMonitor.change (m : ExchangeMonitor) (p : Port) (a : Chr) (f : ExchangeRecord → ExchangeRecord) :
    ExchangeMonitor :=
  { m with records := m.records.map fun r => if r.onPair p a then f r else r }

/-- Insert by falling age. -/
def insertByAge (m : ExchangeMonitor) (r : ExchangeRecord) : List ExchangeRecord → List ExchangeRecord
  | [] => [r]
  | x :: rest => if m.age x < m.age r then r :: x :: rest else x :: insertByAge m r rest

/-- The records in falling age, the oldest first (R50, R73). -/
def ExchangeMonitor.oldestFirst (m : ExchangeMonitor) (rs : List ExchangeRecord) : List ExchangeRecord :=
  rs.foldl (fun acc r => insertByAge m r acc) []

/-- The oldest LAPSED record (R50, R53). -/
def ExchangeMonitor.oldestLapsed (m : ExchangeMonitor) : Option ExchangeRecord :=
  (m.oldestFirst (m.records.filter fun r => !r.isOpen)).head?

/-- The record an accepted opening creates (R52, Table 3-3). -/
def ExchangeMonitor.opened (m : ExchangeMonitor) (p : Port) (e : QueueEntry) (q : ExchangeRequest) : ExchangeRecord :=
  { target := p, line := e.line, origin := q.origin, originAddress := q.originAddress, window := q.window,
    standIn := q.standIn, state := .sending, remaining := 0, request := some e.desc, lateHold := false, seq := m.nextSeq }

def ExchangeMonitor.append (m : ExchangeMonitor) (r : ExchangeRecord) : ExchangeMonitor :=
  { m with records := m.records ++ [r], nextSeq := m.nextSeq + 1 }

/-- Take an opening (R52, R53): the table with the SENDING record, or refused. `depth` is the port's overlap depth. -/
def ExchangeMonitor.opening (m : ExchangeMonitor) (depth : Nat) (p : Port) (e : QueueEntry) (q : ExchangeRequest) :
    Option ExchangeMonitor :=
  if m.records.any (fun r => r.onPair p e.line && r.isOpen) then none
  else if m.openCount p ≥ depth then none
  else
    let m' := m.removePair p e.line
    if m'.records.length < Config.exchangeCount then some (m'.append (m.opened p e q))
    else
      match m'.oldestLapsed with
      | none => none
      | some old => some ((m'.removePair old.target old.line).append (m.opened p e q))

/-- A millisecond boundary: what an AWAITING record and a LAPSED record without late hold lose (R51). -/
def ExchangeRecord.millisecond (r : ExchangeRecord) : ExchangeRecord :=
  match r.state with
  | .awaiting => { r with remaining := r.remaining - 1 }
  | .lapsed => if r.lateHold then r else { r with remaining := r.remaining - 1 }
  | .sending | .answering => r

/-- What an address character does to the record of its pair (R58, Table 3-4). -/
def ExchangeRecord.addressSeen (r : ExchangeRecord) : ExchangeRecord :=
  match r.state with
  | .awaiting => { r with state := .answering }
  | .lapsed => { r with lateHold := true }
  | .sending | .answering => r

/-- Whether an address character on the record's pair marks its telegram late (R58, R59). -/
def ExchangeRecord.marksLate (r : ExchangeRecord) : Bool := decide (r.state = .lapsed) && !r.lateHold

/-- The request's last stop bit has left (R55). -/
def ExchangeRecord.sent (r : ExchangeRecord) : ExchangeRecord :=
  { r with state := .awaiting, remaining := r.window, request := none }

/-- The record lingers after NO_ANSWER (R57). -/
def ExchangeRecord.lapse (r : ExchangeRecord) : ExchangeRecord :=
  { r with state := .lapsed, remaining := r.window, lateHold := false }

/-- The SENDING record a report names by port and descriptor (R54). -/
def ExchangeMonitor.sendingRecord (m : ExchangeMonitor) (p : Port) (d : DescNo) : Option ExchangeRecord :=
  m.records.find? fun r => decide (r.target = p ∧ r.state = .sending ∧ r.request = some d)

/-! ### Stand-in replies (R69) -/

def Settings.reasonCode (t : Settings) : CloseOutcome → Chr
  | .noAnswer => t.reasonNoAnswer
  | .damaged => t.reasonDamaged
  | .unreachable => t.reasonUnreachable

/-- The characters before the check: origin address, reason code at its position, fillers elsewhere (Table 3-8). -/
def Settings.standInBody (t : Settings) (origin : Chr) (o : CloseOutcome) : List Chr :=
  (List.range t.length).map fun k =>
    if k = 0 then origin else if k = t.reasonPos then t.reasonCode o else t.filler.getD k 0

/-- A stand-in reply, check characters included (Table 3-8). -/
def Settings.standInReply (t : Settings) (origin : Chr) (o : CloseOutcome) : List Chr :=
  let body := t.standInBody origin o
  match t.check with
  | .noCheck => body
  | .sum8 => body ++ [sum8 body]
  | .crc16 => body ++ twoChars (crc16 body)

end Sys2Proof.Machine
end

