-- ==== Sys2Proof/Machine/Operands.lean ====
section
/-! DEFINITION. The records that management commands carry and that replies return, character by character
(section 10.7), and the checks of their fields. -/

namespace Sys2Proof.Machine

/-! ### Result codes (R180, Table 10-5) -/

inductive Result where
  | ok | busy | state | range | full | absent | length | unknown | conflict
deriving DecidableEq, Repr

def Result.code : Result → Chr
  | .ok => 0x00 | .busy => 0x01 | .state => 0x02 | .range => 0x03 | .full => 0x04 | .absent => 0x05
  | .length => 0x06 | .unknown => 0x07 | .conflict => 0x08

/-- A result with the data characters of its reply. -/
structure Answer where
  result : Result
  data : List Chr
deriving DecidableEq, Repr

/-- A refusal carries no data (R175). -/
def Answer.refuse (r : Result) : Answer := { result := r, data := [] }

def Answer.okWith (data : List Chr) : Answer := { result := .ok, data := data }

/-! ### Command codes and parameter counts (Table 10-6) -/

inductive Command where
  | status | forwarding | portRead | portFormat | portControl | countersClear | routeWrite | routeDelete | routeRead
  | routeList | tableCommit | tableDiscard | routeRearm | exchangeList | noticeRead | settingsWrite | settingsRead
  | restart
deriving DecidableEq, Repr

def Command.code : Command → Chr
  | .status => 0x01 | .forwarding => 0x02 | .portRead => 0x03 | .portFormat => 0x04 | .portControl => 0x05
  | .countersClear => 0x06 | .routeWrite => 0x07 | .routeDelete => 0x08 | .routeRead => 0x09 | .routeList => 0x0A
  | .tableCommit => 0x0B | .tableDiscard => 0x0C | .routeRearm => 0x0D | .exchangeList => 0x0E | .noticeRead => 0x0F
  | .settingsWrite => 0x10 | .settingsRead => 0x11 | .restart => 0x12

def Command.all : List Command :=
  [.status, .forwarding, .portRead, .portFormat, .portControl, .countersClear, .routeWrite, .routeDelete, .routeRead,
   .routeList, .tableCommit, .tableDiscard, .routeRearm, .exchangeList, .noticeRead, .settingsWrite, .settingsRead,
   .restart]

/-- The command a code names (R179). -/
def Command.ofCode (c : Chr) : Option Command := Command.all.find? fun k => decide (k.code = c)

/-- Whether the number of parameters is the command's (R179). PORT_FORMAT takes 14 + 2n, n being parameter 13. -/
def Command.countOk (k : Command) (params : List Chr) : Bool :=
  match k with
  | .status | .tableCommit | .tableDiscard | .exchangeList | .settingsRead => params.length = 0
  | .forwarding | .portRead | .countersClear | .noticeRead | .restart => params.length = 1
  | .portControl | .routeDelete | .routeRearm => params.length = 2
  | .routeRead | .routeList => params.length = 3
  | .routeWrite => params.length = 11
  | .settingsWrite => params.length = 18
  | .portFormat =>
    match params[13]? with
    | some n => params.length = 14 + 2 * n.toNat
    | none => false

/-- Parameter `k` of a request. -/
def param (params : List Chr) (k : Nat) : Chr := params.getD k 0

/-! ### Route entry record (Table 10-9, R193) -/

def destinationsOf (mask : Chr) : PerPort Bool :=
  { trunk := mask.getLsbD 0, b1 := mask.getLsbD 1, b2 := mask.getLsbD 2, b3 := mask.getLsbD 3, b4 := mask.getLsbD 4 }

def destinationsMask (d : PerPort Bool) : Chr :=
  natChr (d.trunk.toNat + 2 * d.b1.toNat + 4 * d.b2.toNat + 8 * d.b3.toNat + 16 * d.b4.toNat)

/-- An allowance as written, where its numbers are in range (Table 1-1; a written count is not 0, Table 1-2). -/
def parseAllowance (present reload : Bool) (count reloadValue : Word16) : Option (Option Allowance) :=
  if present then
    if count.toNat ≥ 1 ∧ reloadValue.toNat ≥ 1 then
      some (some { count := count.toNat, reload := reloadValue.toNat, mode := if reload then .reload else .retire })
    else none
  else some none

/-- A reply as written, where its window is in range (Table 1-1). -/
def parseReply (present standIn : Bool) (window : Word16) : Option (Option ReplySpec) :=
  if present then
    if 1 ≤ window.toNat ∧ window.toNat ≤ 4000 then some (some { window := window.toNat, standIn := standIn }) else none
  else some none

/-- Read the route entry record of a ROUTE_WRITE (R193), absent where a field is out of range (Table 1-2). A written
entry is LIVE. -/
def parseRoute (params : List Chr) : Option RouteEntry :=
  let flags := param params 3
  let mask := param params 2
  match Port.ofChr (param params 0),
    parseReply (flags.getLsbD 1) (flags.getLsbD 2) (wordOf (param params 5) (param params 6)),
    parseAllowance (flags.getLsbD 3) (flags.getLsbD 4) (wordOf (param params 7) (param params 8))
      (wordOf (param params 9) (param params 10)) with
  | some p, some reply, some allowance =>
    if mask.toNat < 32 ∧ flags.toNat < 32 then
      some { arrival := p, address := param params 1, destinations := destinationsOf mask,
             egress := if flags.getLsbD 0 then some (param params 4) else none,
             reply := reply, allowance := allowance, retired := false }
    else none
  | _, _, _ => none

/-- What R1 asks of every entry of either bank, and R3 of a write beyond its field ranges: destinations not empty and
without the arrival port, a reply toward one destination, and nothing in the way of the management address. -/
def RouteEntry.legal (mgmt : Chr) (e : RouteEntry) : Bool :=
  !e.destinationList.isEmpty && !e.destinations.get e.arrival
    && (e.reply.isNone || e.destinationList.length = 1)
    && !(decide (e.arrival = .trunk) && decide (e.address = mgmt))
    && !(e.destinations.trunk && decide (e.effectiveEgress = mgmt))

/-- The route entry record of a ROUTE_READ reply (R193). -/
def RouteEntry.chars (e : RouteEntry) : List Chr :=
  let standIn := match e.reply with | some r => r.standIn | none => false
  let reload := match e.allowance with | some al => decide (al.mode = AllowanceMode.reload) | none => false
  [e.arrival.toChr, e.address, destinationsMask e.destinations,
   natChr (e.egress.isSome.toNat + 2 * e.reply.isSome.toNat + 4 * standIn.toNat + 8 * e.allowance.isSome.toNat
     + 16 * reload.toNat + 32 * (e.retired && e.allowance.isSome).toNat),
   e.egress.getD 0]
    ++ natTwo (match e.reply with | some r => r.window | none => 0)
    ++ natTwo (match e.allowance with | some al => al.count | none => 0)
    ++ natTwo (match e.allowance with | some al => al.reload | none => 0)

/-! ### Format record (Table 10-10, R194) -/

def inRange (lo hi n : Nat) : Bool := decide (lo ≤ n) && decide (n ≤ hi)

/-- Pattern entries of two characters each (Table 10-10). -/
def parsePattern : List Chr → List Nat
  | hi :: lo :: rest => (wordOf hi lo).toNat :: parsePattern rest
  | _ => []

def parseWidth (c : Chr) : Option DataWidth :=
  match c.toNat with
  | 7 => some .seven
  | 8 => some .eight
  | _ => none

def parseParity (c : Chr) : Option Parity :=
  match c.toNat with
  | 0 => some .noParity
  | 1 => some .even
  | 2 => some .odd
  | _ => none

def parseStop (c : Chr) : Option StopBits :=
  match c.toNat with
  | 1 => some .one
  | 2 => some .two
  | _ => none

def parseFraming (c : Chr) : Option Framing :=
  match c.toNat with
  | 0 => some .idleLine
  | 1 => some .addressBit
  | _ => none

def parseMiss (c : Chr) : Option MissPolicy :=
  match c.toNat with
  | 0 => some .drop
  | 1 => some .dropNote
  | 2 => some .passToTrunk
  | _ => none

/-- The numbers of a format record lie in the ranges of Table 8-1, the guard not below the end gap (R149, R150). -/
def FormatRecord.inRanges (f : FormatRecord) : Bool :=
  inRange 1 12 f.pattern.length && f.pattern.all (inRange 8 4095) && inRange 2 40 f.endGap
    && inRange f.endGap 64 f.guardGap && inRange 1 4 f.overlap && decide (f.retryLimit ≤ 7)
    && inRange 1 15 f.abandonLimit && inRange 10 1000 f.stuckLimit

/-- Read a format record, absent where a code or number is out of range (R150, orders 2 and 3). -/
def parseFormat (rec : List Chr) : Option FormatRecord :=
  match parseWidth (param rec 0), parseParity (param rec 1), parseStop (param rec 2), parseFraming (param rec 3),
    parseMiss (param rec 11) with
  | some w, some par, some st, some fr, some miss =>
    let f : FormatRecord :=
      { width := w, parity := par, stopBits := st, framing := fr, pattern := parsePattern (rec.drop 13),
        endGap := (param rec 4).toNat, guardGap := (param rec 5).toNat, overlap := (param rec 6).toNat,
        retryLimit := (param rec 7).toNat, abandonLimit := (param rec 8).toNat,
        stuckLimit := (wordOf (param rec 9) (param rec 10)).toNat, miss := miss }
    if f.inRanges && decide (f.pattern.length = (param rec 12).toNat) then some f else none
  | _, _, _, _, _ => none

/-- What a format record must meet on the trunk (R150, order 4). -/
def FormatRecord.trunkOk (f : FormatRecord) : Bool := decide (f.width = .eight) && decide (f.miss ≠ .passToTrunk)

def FormatRecord.chars (f : FormatRecord) : List Chr :=
  [match f.width with | .seven => 0x07 | .eight => 0x08,
   match f.parity with | .noParity => 0x00 | .even => 0x01 | .odd => 0x02,
   match f.stopBits with | .one => 0x01 | .two => 0x02,
   match f.framing with | .idleLine => 0x00 | .addressBit => 0x01,
   natChr f.endGap, natChr f.guardGap, natChr f.overlap, natChr f.retryLimit, natChr f.abandonLimit]
    ++ natTwo f.stuckLimit
    ++ [match f.miss with | .drop => 0x00 | .dropNote => 0x01 | .passToTrunk => 0x02, natChr f.pattern.length]
    ++ f.pattern.flatMap natTwo

/-! ### PORT_READ data (Table 10-12) -/

def AdminState.code : AdminState → Chr
  | .disabled => 0x00 | .active => 0x01 | .faulted => 0x02

def faultCode : Option FaultReason → Chr
  | none => 0x00
  | some .stuck => 0x01
  | some .contention => 0x02

def Receiver.code : Receiver → Chr
  | .off => 0x00
  | .settling => 0x01
  | .idle => 0x02
  | .inTelegram _ _ => 0x03
  | .discarding _ _ => 0x04
  | .echo _ => 0x05

def LineMonitor.code : LineMonitor → Chr
  | .released => 0x00 | .busy => 0x01 | .spaceHeld => 0x02

def Phase.code : Phase → Chr
  | .empty => 0x00 | .headHeld => 0x01 | .reserved => 0x02 | .onLine => 0x03 | .backoff => 0x04

def portReadData (p : Port) (x : PortState) : List Chr :=
  [p.toChr] ++ x.format.chars
    ++ [x.admin.code, faultCode x.lastFault, x.receiver.code, x.monitor.code, x.scheduler.phase.code,
        natChr x.scheduler.queue.length, natChr x.scheduler.attempts, natChr x.scheduler.abandons]
    ++ natTwo x.counters.rxTelegrams ++ natTwo x.counters.rxDiscarded
    ++ natTwo x.counters.txTelegrams ++ natTwo x.counters.collisions

/-! ### Exchange record (Table 10-13, R195) -/

def ExchangeState.code : ExchangeState → Nat
  | .sending => 0 | .awaiting => 1 | .answering => 2 | .lapsed => 3

def ExchangeRecord.chars (r : ExchangeRecord) : List Chr :=
  let reported := match r.state with | .sending => 0 | .awaiting | .answering | .lapsed => r.remaining
  let number := match r.state, r.request with | .sending, some d => natChr d.val | _, _ => 0xFF
  [r.target.toChr, r.line, r.origin.toChr, r.originAddress] ++ natTwo r.window
    ++ [natChr (r.state.code + 4 * r.standIn.toNat + 8 * r.lateHold.toNat)]
    ++ natTwo reported ++ [number] ++ twoChars r.seq

/-! ### Settings record (Table 10-15, R184) -/

def parseCheck (c : Chr) : Option CheckKind :=
  match c.toNat with
  | 0 => some .noCheck
  | 1 => some .sum8
  | 2 => some .crc16
  | _ => none

/-- The checks of SETTINGS_WRITE (R184). -/
def Settings.inRanges (t : Settings) : Bool :=
  inRange 2 8 t.length && inRange 1 (t.length - 1) t.reasonPos && inRange 1000 16000 t.divisor
    && inRange 10 1000 t.breakLength

/-- Read a settings record, absent where R184 refuses it. -/
def parseSettings (params : List Chr) : Option Settings :=
  match parseCheck (param params 2) with
  | none => none
  | some check =>
    let t : Settings :=
      { length := (param params 0).toNat, reasonPos := (param params 1).toNat, check := check,
        filler := (List.range 8).map fun k => param params (3 + k), reasonNoAnswer := param params 11,
        reasonDamaged := param params 12, reasonUnreachable := param params 13,
        divisor := (wordOf (param params 14) (param params 15)).toNat,
        breakLength := (wordOf (param params 16) (param params 17)).toNat }
    if t.inRanges then some t else none

def Settings.chars (t : Settings) : List Chr :=
  [natChr t.length, natChr t.reasonPos,
   match t.check with | .noCheck => 0x00 | .sum8 => 0x01 | .crc16 => 0x02]
    ++ (List.range 8).map (fun k => t.filler.getD k 0)
    ++ [t.reasonNoAnswer, t.reasonDamaged, t.reasonUnreachable] ++ natTwo t.divisor ++ natTwo t.breakLength

end Sys2Proof.Machine
end

