-- ==== Sys2Proof/Machine/Flags.lean ====
section
/-! DEFINITION. The status character (R181), the restart-seen flag, and the counters that stay at their top (R161). -/

namespace Sys2Proof.Machine

/-- Raise a counter by one; at 65 535 it stays (R161). -/
def bump (n : Nat) : Nat := if n < Config.counterMax then n + 1 else n

def Counters.addRxTelegram (c : Counters) : Counters := { c with rxTelegrams := bump c.rxTelegrams }

def Counters.addRxDiscarded (c : Counters) : Counters := { c with rxDiscarded := bump c.rxDiscarded }

def Counters.addTxTelegram (c : Counters) : Counters := { c with txTelegrams := bump c.txTelegrams }

def Counters.addCollision (c : Counters) : Counters := { c with collisions := bump c.collisions }

/-- Count one on port `p`. -/
def State.count (s : State) (p : Port) (f : Counters → Counters) : State :=
  s.onPort p fun x => { x with counters := f x.counters }

/-- At least one branch is FAULTED (R154, R181). -/
def State.anyFaulted (s : State) : Bool :=
  Port.all.any fun p => p.isBranch && decide ((s.port p).admin = .faulted)

/-- The status character as the state stands (R181, Table 10-4). -/
def State.statusChar (s : State) : Chr :=
  natChr (128 * s.agent.forwarding.toNat + 64 * (!s.notices.records.isEmpty).toNat + 32 * s.anyFaulted.toNat
    + 16 * s.agent.restartSeen.toNat + 8 * (!s.exchanges.records.isEmpty).toNat + s.routes.shadow.code)

/-- The management address, F0h + MADDR as last sampled (R1, Table 0-4). -/
def State.mgmtAddress (s : State) : Chr := 0xF0 + s.straps.maddr.zeroExtend 8

end Sys2Proof.Machine
end

