-- ==== Sys2Proof/Machine/Ops.lean ====
section
/-! DEFINITION. The operations several commands share: deciding and starting a queue head, offers and queue entries,
closing exchanges and stand-in replies, abandoning a reception, and the loss of a port. -/

namespace Sys2Proof.Machine

/-! ### The scheduler record -/

def State.scheduler (s : State) (p : Port) : Scheduler := (s.port p).scheduler

def State.onScheduler (s : State) (p : Port) (f : Scheduler → Scheduler) : State :=
  s.onPort p fun x => { x with scheduler := f x.scheduler }

def State.setPhase (s : State) (p : Port) (ph : Phase) : State := s.onScheduler p fun c => { c with phase := ph }

/-! ### Closing an open telegram (R122) -/

/-- The completion of the telegram a receiver has open (Table 2-1): its descriptor's items from IN_TELEGRAM, the
address and counted length without a descriptor from DISCARDING, which holds no more (Table 6-2). The wide flag of a
completion without a descriptor is clear, and nothing reads it (DESIGN CHOICE, entry 34). -/
def openCompletion (q : Pool) : Receiver → Option Completion
  | .inTelegram d _ =>
    let x := q.descriptor d
    some { address := x.address, desc := some d, length := x.length, wide := x.wide, damage := x.damage }
  | .discarding a n => some { address := a, desc := none, length := n, wide := false, damage := none }
  | .off | .settling | .idle | .echo _ => none

/-- Raise the completion of port `p`'s open telegram, if one is open, and go to IDLE (R122). -/
def State.closeTelegram (s : State) (p : Port) : State :=
  match openCompletion s.pool (s.port p).receiver with
  | some c => s.onPort p fun x => { x with receiver := .idle, completions := x.completions ++ [c] }
  | none => s

/-! ### Attempts (sections 5.2, 5.3) -/

/-- The character an entry sends in place `i`: its line address first, then the stored characters (R43, R101). -/
def Pool.sentChar (q : Pool) (e : QueueEntry) (i : Nat) : Chr := if i = 0 then e.line else q.charAt e.desc i

/-- Start an attempt of the head: a telegram still open is closed first, the receiver enters ECHO, the scheduler
ON_LINE, and the transmitter begins character 0 in the format in force (R100, R125, R145). -/
def State.startAttempt (s : State) (p : Port) : State :=
  match (s.scheduler p).queue with
  | [] => s
  | e :: _ =>
    (s.closeTelegram p).onPort p fun x =>
      { x with
        receiver := .echo 0
        transmitter := .sending x.format 0 (x.format.levels e.line true) 0 0 false
        scheduler := { x.scheduler with phase := .onLine } }

/-- Whether a head that has not started its first attempt is held (R97, Table 5-4). -/
def State.held (s : State) (p : Port) (e : QueueEntry) : Bool :=
  decide ((s.port p).admin ≠ .active)
    || decide ((s.port p).format.overlap ≤ s.exchanges.openCount p)
    || (e.request.isSome
        && ((decide (Config.exchangeCount ≤ s.exchanges.records.length) && s.exchanges.records.all ExchangeRecord.isOpen)
            || s.exchanges.records.any fun r => r.onPair p e.line && r.isOpen))

/-- Start the head's first attempt, after its opening where it carries an exchange request (R100). -/
def State.firstAttempt (s : State) (p : Port) (e : QueueEntry) : State :=
  match e.request with
  | none => s.startAttempt p
  | some q =>
    match s.exchanges.opening (s.port p).format.overlap p e q with
    | some m => ({ s with exchanges := m } : State).startAttempt p
    | none => s.setPhase p .headHeld

/-- The driver-enable output (R147). -/
def PortState.driverEnable (x : PortState) : Bool :=
  match x.transmitter with
  | .rest => false
  | .sending _ _ _ _ _ _ => true

/-- A head may start at once: the line monitor is RELEASED, and the driver is not finishing a character at which an
attempt was cut, which is a character in progress on the line (R99, R127, R147; entry 16). -/
def PortState.lineFree (x : PortState) : Bool := decide (x.monitor = .released) && !x.driverEnable

/-- Decide a head that has not started: held, started, or reserved for the next release (R97, R99). An empty queue
leaves the scheduler EMPTY. -/
def State.decideHead (s : State) (p : Port) : State :=
  match (s.scheduler p).queue with
  | [] => s.onScheduler p fun c => { c with phase := .empty, attempts := 0 }
  | e :: _ =>
    if s.held p e then s.setPhase p .headHeld
    else if (s.port p).lineFree then s.firstAttempt p e
    else s.setPhase p .reserved

/-- Decide one HEAD_HELD head again; a scheduler in another state ignores the signal (R98). -/
def State.redecidePort (s : State) (p : Port) : State :=
  if (s.scheduler p).phase = .headHeld then s.decideHead p else s

/-- The Exchange Monitor's signal to every scheduler (R98), taken in ascending port number (DESIGN CHOICE, entry 4). -/
def State.redecide (s : State) : State := Port.all.foldl State.redecidePort s

/-- A pending trunk overlap depth takes effect once the records that target T no longer exceed it (R153). -/
def State.settleDepth (s : State) : State :=
  match s.trunk.pendingDepth with
  | none => s
  | some d =>
    if s.exchanges.openCount .trunk ≤ d then
      ({ s with trunk := { s.trunk with pendingDepth := none } } : State).onPort .trunk fun x =>
        { x with format := { x.format with overlap := d } }
    else s

/-- What follows a record's leaving SENDING, AWAITING or ANSWERING, lapsing or being freed (R98, R153). The pending
depth is settled before heads are decided again (DESIGN CHOICE, entry 4). -/
def State.tableChanged (s : State) : State := s.settleDepth.redecide

/-! ### Offers and queue entries (R41, R42, R95) -/

/-- The queue has no place for an entry of the Admission Unit or the Exchange Monitor (R42). -/
def State.queueFull (s : State) (p : Port) : Bool :=
  match p with
  | .trunk => decide (Config.trunkOrdinary ≤ ((s.scheduler .trunk).queue.filter fun e => decide (e.desc ≠ 0)).length)
  | .b1 | .b2 | .b3 | .b4 => decide (Config.queueSize ≤ (s.scheduler p).queue.length)

/-- The destination filter: the first reason to leave the destination out (R41, Table 2-7). -/
def State.filter (s : State) (p : Port) (line : Chr) (wide : Bool) : Option OmitReason :=
  if (s.port p).admin ≠ .active then some .portDown
  else if (s.port p).format.width = .seven ∧ (line.toNat > 0x7F ∨ wide) then some .width
  else if s.queueFull p then some .queueFull
  else none

/-- An accepted entry joins the tail and adds one reference; into an empty queue it becomes the head and is decided at
once (R85, R95). -/
def State.enqueue (s : State) (p : Port) (e : QueueEntry) : State :=
  let joined := ({ s with pool := s.pool.addRef e.desc } : State).onScheduler p fun c => { c with queue := c.queue ++ [e] }
  if (s.scheduler p).queue.isEmpty then joined.decideHead p else joined

/-- The head leaves its queue and gives up its reference (R86). The scheduler is EMPTY until its next head is decided. Its
backoff gap, without meaning outside BACKOFF (R96), is set to 0, here and where the queue is emptied (DESIGN CHOICE, entry
33). -/
def State.popHead (s : State) (p : Port) (e : QueueEntry) : State :=
  ({ s with pool := s.pool.dropRef e.desc } : State).onScheduler p fun c =>
    { c with queue := c.queue.tail, phase := .empty, attempts := 0, backoffGap := 0 }

/-! ### Stand-in replies (R70) -/

/-- A stand-in reply that found no storage or no place (R70). -/
def State.loseStandIn (s : State) (r : ExchangeRecord) (why : LossReason) : State :=
  s.post .standinLost (some r.origin) (some r.originAddress) (some why.code)

/-- Fill descriptor `d` and its one cell with a stand-in reply, as a receiver would hold it (R70 step 3). -/
def Pool.fillStandIn (q : Pool) (d : DescNo) (c : CellNo) (r : ExchangeRecord) (reply : List Chr) (wide : Bool) : Pool :=
  ({ q with cells := writeCells q.cells (c.val * Config.cellSize) reply } : Pool).setDescriptor d
    { state := .receiving, arrival := r.target, address := r.originAddress, length := reply.length, cells := [c],
      wide := wide, damage := none, refs := 1 }

/-- Build and offer a stand-in reply toward the record's origin (R69, R70). -/
def State.standIn (s : State) (r : ExchangeRecord) (o : CloseOutcome) : State :=
  match s.pool.freeDescriptor?, s.pool.takeCell with
  | none, _ => s.loseStandIn r .noDescriptor
  | some _, none => s.loseStandIn r .noCell
  | some d, some (c, q) =>
    let reply := s.agent.settings.standInReply r.originAddress o
    let wide := (reply.drop 1).any fun x => decide (x.toNat > 0x7F)
    let filled : State := { s with pool := q.fillStandIn d c r reply wide }
    match filled.filter r.origin r.originAddress wide with
    | none =>
      let queued := filled.enqueue r.origin { desc := d, line := r.originAddress, request := none }
      { queued with pool := queued.pool.giveUp d }
    | some why => ({ filled with pool := filled.pool.giveUp d } : State).loseStandIn r (.omitted why)

/-! ### Closing exchanges (section 3.6) -/

/-- Close an exchange with an outcome that is posted: EXCHANGE_CLOSED, the stand-in reply where it is ON, then the
record freed, or LAPSED after NO_ANSWER (R57, R61 to R63, R65, R68). -/
def State.closeExchange (s : State) (r : ExchangeRecord) (o : CloseOutcome) : State :=
  let posted := s.post .exchangeClosed (some r.target) (some r.line) (some o.code)
  let answered := if r.standIn then posted.standIn r o else posted
  let m := answered.exchanges
  let table :=
    match o with
    | .noAnswer => m.change r.target r.line ExchangeRecord.lapse
    | .damaged | .unreachable => m.removePair r.target r.line
  ({ answered with exchanges := table } : State).tableChanged

/-- Free the record of a pair without notice. -/
def State.freeRecord (s : State) (p : Port) (a : Chr) : State :=
  ({ s with exchanges := s.exchanges.removePair p a } : State).tableChanged

/-- A started head has left its queue without completing: its SENDING record closes UNREACHABLE (R62). -/
def State.requestLost (s : State) (p : Port) (d : DescNo) : State :=
  match s.exchanges.sendingRecord p d with
  | some r => s.closeExchange r .unreachable
  | none => s

/-- The Exchange Monitor's part of a port loss: open records close UNREACHABLE, youngest first, and LAPSED records
with late hold are freed (R63). -/
def State.targetLost (s : State) (p : Port) : State :=
  let doomed := (s.exchanges.oldestFirst (s.exchanges.records.filter fun r => decide (r.target = p) && r.isOpen)).reverse
  let closed := doomed.foldl (fun t r => t.closeExchange r .unreachable) s
  let m := closed.exchanges
  ({ closed with
      exchanges := { m with records := m.records.filter fun r => !(decide (r.target = p) && !r.isOpen && r.lateHold) } } :
    State).tableChanged

/-! ### Losing a port (R112, R126, R156) -/

/-- The transmission is to end after the stop bits of the character being sent (R104, R112, R113). -/
def Transmitter.cutShort : Transmitter → Transmitter
  | .rest => .rest
  | .sending f i ls b t _ => .sending f i ls b t true

/-- Abandon the open telegram, its storage freed, counted once in rx_discarded, and take the given state (R126). -/
def State.abandonTelegram (s : State) (p : Port) (after : Receiver) : State :=
  let freed :=
    match (s.port p).receiver with
    | .inTelegram d _ => ({ s with pool := s.pool.giveUp d } : State).count p Counters.addRxDiscarded
    | .discarding _ _ => s.count p Counters.addRxDiscarded
    | .off | .settling | .idle | .echo _ => s
  freed.onPort p fun x => { x with receiver := after }

/-- Every entry leaves the queue; PURGED where at least one did (R112). The consecutive-abandon count stays. -/
def State.clearQueue (s : State) (p : Port) : State :=
  let q := (s.scheduler p).queue
  let emptied :=
    ({ s with pool := q.foldl (fun pool e => pool.dropRef e.desc) s.pool } : State).onScheduler p fun c =>
      { c with queue := [], phase := .empty, attempts := 0, backoffGap := 0 }
  if q.isEmpty then emptied else emptied.post .purged (some p) none (some (BitVec.ofNat 16 q.length))

/-- A port goes to DISABLED or FAULTED from ACTIVE: the five parts of R156 in their order. -/
def State.portLoss (s : State) (p : Port) (admin : AdminState) : State :=
  let down := s.onPort p fun x => { x with admin := admin, limitReached := false, transmitter := x.transmitter.cutShort }
  ((down.clearQueue p).targetLost p).abandonTelegram p .off

/-- A fault reported to the Line Port: an ACTIVE branch goes to FAULTED with PORT_FAULTED and the cascade, any other
port is left as it is (R157). -/
def State.faultPort (s : State) (p : Port) (why : FaultReason) : State :=
  if p.isBranch ∧ (s.port p).admin = .active then
    ((s.onPort p fun x => { x with lastFault := some why }).post .portFaulted (some p) none (some why.code)).portLoss p
      .faulted
  else s

/-! ### Levels -/

/-- The receive input reads mark (R115, R127, R130, R132, R142): the space count stops and clears, SPACE_HELD becomes
BUSY with the mark span from 0, the trunk's break is armed again, and a character receiver in AWAIT_MARK goes on. So it is
too on a line that reads mark already, before a tick of mark has passed (DESIGN CHOICE: entry 2 for RETURN_OF_MARK, entry
13 for a report). -/
def State.readMark (s : State) (p : Port) : State :=
  let seen := s.onPort p fun x =>
    { x with
      rxPin := .mark
      spaceSpan := 0
      spaceCount := 0
      limitReached := false
      monitor := if x.monitor = .spaceHeld then .busy else x.monitor
      markSpan := if x.monitor = .spaceHeld then 0 else x.markSpan
      charReceiver := if x.charReceiver = .awaitMark then .awaitStart else x.charReceiver }
  match p with
  | .trunk => { seen with trunk := { seen.trunk with breakState := .armed } }
  | .b1 | .b2 | .b3 | .b4 => seen

/-- What a mark-to-space edge does to the line monitor and its counts (R115, R127, R130). -/
def PortState.edge (x : PortState) : PortState :=
  { x with
    rxPin := .space
    markSpan := 0
    charTail := 0
    spaceSpan := 0
    spaceCount := 0
    limitReached := false
    monitor := if x.monitor = .released then .busy else x.monitor }

/-- A character or an attempt has just ended, so the span starts again and the line is BUSY until the guard (R99,
R115, R127). -/
def PortState.characterEnded (x : PortState) (tail : Nat) : PortState :=
  { x with markSpan := 0, charTail := tail, monitor := if x.monitor = .released then .busy else x.monitor }

/-- The transmit data output: the bit being sent, mark otherwise (R145). -/
def PortState.txPin (x : PortState) : Level :=
  match x.transmitter with
  | .rest => .mark
  | .sending _ _ levels bit _ _ => levels.getD bit .mark

/-- No character is in progress on the line and it reads mark, so that its mark span counts (R115; entry 15). A start
bit not yet confirmed is no character yet (R140). -/
def PortState.quiet (x : PortState) : Bool :=
  decide (x.rxPin = .mark) && !x.driverEnable &&
    match x.charReceiver with
    | .awaitMark | .awaitStart => true
    | .inCharacter _ _ _ samples => samples.isEmpty

/-- An event that says the mark span has reached `n` ticks (entry 1). -/
def PortState.spanReached (x : PortState) (n : Nat) : PortState := { x with markSpan := max x.markSpan n, charTail := 0 }

end Sys2Proof.Machine
end

