-- ==== Sys2Proof/Machine/Admission.lean ====
section
/-! DEFINITION. The Admission Unit (chapter 2): TELEGRAM_COMPLETION. -/

namespace Sys2Proof.Machine

def Damage.code : Damage → Word16
  | .parity => 1 | .framing => 2 | .brk => 3
  | .overlength | .shortfall | .late => 0

/-- The Admission Unit gives up the receiver's reference, where the completion has a descriptor (R29). -/
def State.finishCompletion (s : State) (c : Completion) : State :=
  match c.desc with
  | some d => { s with pool := s.pool.giveUp d }
  | none => s

/-- The telegram reaches no queue: rx_discarded, and its storage goes (R45). -/
def State.discardCompletion (s : State) (p : Port) (c : Completion) : State :=
  (s.count p Counters.addRxDiscarded).finishCompletion c

/-- What the Exchange Monitor does with a damaged completion on its pair (R61, Table 3-6, first matching row). -/
def State.reportDamaged (s : State) (p : Port) (c : Completion) : State :=
  let late := s.post .lateReply (some p) (some c.address) none
  match s.exchanges.find p c.address with
  | some r =>
    if r.state = .answering then s.closeExchange r .damaged
    else if r.state = .lapsed ∧ r.lateHold then late.freeRecord p c.address
    else if c.damage = some .late then late
    else s
  | none => if c.damage = some .late then late else s

/-- The Admission Unit's own notice for a damaged completion that holds a descriptor (R30, Table 2-3; none without
one, R31). -/
def State.postDamage (s : State) (p : Port) (c : Completion) : State :=
  match c.desc, c.damage with
  | none, _ => s
  | some _, none => s
  | some _, some .overlength => s.post .overlength (some p) (some c.address) none
  | some _, some .shortfall => s.post .poolExhausted (some p) (some c.address) none
  | some _, some .late => s
  | some _, some .parity => s.post .lineError (some p) (some c.address) (some (Damage.code .parity))
  | some _, some .framing => s.post .lineError (some p) (some c.address) (some (Damage.code .framing))
  | some _, some .brk => s.post .lineError (some p) (some c.address) (some (Damage.code .brk))

/-- Offer an entry for the completion's telegram to one port: the state, and whether it was accepted. One left out
posts DEST_OMITTED (R34, R40, R41). -/
def State.offerTo (s : State) (dest : Port) (e : QueueEntry) (wide : Bool) : State × Bool :=
  match s.filter dest e.line wide with
  | none => (s.enqueue dest e, true)
  | some why => (s.post .destOmitted (some dest) (some e.line) (some why.code), false)

/-- Offer one entry to each destination in ascending number: the state, and whether any was accepted (R41, R43). -/
def State.offerAll (s : State) (e : QueueEntry) (wide : Bool) : List Port → State × Bool
  | [] => (s, false)
  | p :: rest =>
    let first := s.offerTo p e wide
    let others := first.1.offerAll e wide rest
    (others.1, first.2 || others.2)

/-- End the decision of a telegram that was offered (R29, R45). -/
def State.endOffer (o : State × Bool) (p : Port) (c : Completion) : State :=
  if o.2 then o.1.finishCompletion c else o.1.discardCompletion p c

/-- Case 3: the reply of an exchange goes back to its origin (R33, R34, R60). -/
def State.carryReply (s : State) (p : Port) (c : Completion) (d : DescNo) (r : ExchangeRecord) : State :=
  let freed := s.freeRecord p c.address
  State.endOffer (freed.offerTo r.origin { desc := d, line := r.originAddress, request := none } c.wide) p c

/-- A miss under the arrival port's miss policy (R39, R40). -/
def State.handleMiss (s : State) (p : Port) (c : Completion) (d : DescNo) : State :=
  match (s.port p).format.miss with
  | .drop => s.discardCompletion p c
  | .dropNote => (s.post .routeMiss (some p) (some c.address) none).discardCompletion p c
  | .passToTrunk =>
    if c.address = s.mgmtAddress ∨ p = .trunk then s.discardCompletion p c
    else State.endOffer (s.offerTo .trunk { desc := d, line := c.address, request := none } c.wide) p c

/-- The exchange request a LIVE entry with a reply gives its one queue entry (R44). -/
def RouteEntry.exchangeRequest (e : RouteEntry) (p : Port) (a : Chr) : Option ExchangeRequest :=
  e.reply.map fun r => { origin := p, originAddress := a, window := r.window, standIn := r.standIn }

/-- A LIVE hit: the destination filter, the queue entries and the count report (R41, R43, R44, R46). -/
def State.handleHit (s : State) (p : Port) (c : Completion) (d : DescNo) (e : RouteEntry) (bank : BankId) : State :=
  let entry : QueueEntry :=
    { desc := d, line := e.egress.getD c.address, request := e.exchangeRequest p c.address }
  let o := s.offerAll entry c.wide e.destinationList
  let t := State.endOffer o p c
  if o.2 then
    { t with routes := { t.routes with countReports := t.routes.countReports ++ [⟨bank, p, c.address⟩] } }
  else t

/-- Case 5: the lookup and what its answer calls for (R37, Table 2-6). -/
def State.routeTelegram (s : State) (p : Port) (c : Completion) (d : DescNo) : State :=
  match s.routes.lookup p c.address with
  | .live e bank => s.handleHit p c d e bank
  | .retired => s.discardCompletion p c
  | .miss => s.handleMiss p c d

/-- Cases 2 to 5 for an undamaged completion with descriptor `d` (Table 2-2). -/
def State.admitWhole (s : State) (p : Port) (c : Completion) (d : DescNo) : State :=
  if p = .trunk ∧ c.address = s.mgmtAddress then
    { s with agent := { s.agent with requests := s.agent.requests ++ [d] } }
  else
    match s.exchanges.find p c.address with
    | some r =>
      if r.state = .answering then s.carryReply p c d r
      else if s.agent.forwarding then s.routeTelegram p c d
      else s.discardCompletion p c
    | none => if s.agent.forwarding then s.routeTelegram p c d else s.discardCompletion p c

/-- Decide one completion whole (R27, Table 2-2). -/
def State.classify (s : State) (p : Port) (c : Completion) : State :=
  let counted := s.count p Counters.addRxTelegram
  match c.desc, c.damage with
  | some d, none => counted.admitWhole p c d
  | none, _ => (((counted.reportDamaged p c).postDamage p c).discardCompletion p c)
  | some _, some _ => (((counted.reportDamaged p c).postDamage p c).discardCompletion p c)

/-- Take the oldest completion raised by port `p`, if there is one (R27). -/
def State.takeCompletion (s : State) (p : Port) : State :=
  match (s.port p).completions with
  | [] => s
  | c :: rest => (s.onPort p fun x => { x with completions := rest }).classify p c

/-- TELEGRAM_COMPLETION (R27). -/
def execTelegramCompletion (p : Port) (s : State) : Host.Outcome State Fault Refusal := .next (s.takeCompletion p)

end Sys2Proof.Machine
end

