-- ==== Sys2Proof/Machine/Restart.lean ====
section
/-! DEFINITION. Warm restart, cold reset and what the leaving of the management reply sets off: COLD_RESET,
TRUNK_BREAK. -/

namespace Sys2Proof.Machine

/-- The first port with a completion that waits. -/
def State.waitingPort (s : State) : Option Port := Port.all.find? fun p => !(s.port p).completions.isEmpty

/-- Decide completions already raised, oldest of the lowest port first, at most `n` of them (entry 8). -/
def State.decideRaised : Nat → State → State
  | 0, s => s
  | n + 1, s =>
    match s.waitingPort with
    | some p => State.decideRaised n (s.takeCompletion p)
    | none => s

/-- The completions raised and not yet taken, and one more for each port, whose open telegram an attempt may close. -/
def State.raisedBound (s : State) : Nat := ((Port.all.map fun p => (s.port p).completions.length).sum) + 5

/-- A port at a warm restart: the open telegram abandoned, the transmission cut, the queue emptied (R113, R116, R126).
An ACTIVE port's receiver enters SETTLING; a port that is down stays OFF (entry 11). -/
def PortState.warm (x : PortState) : PortState :=
  let counters :=
    match x.receiver with
    | .inTelegram _ _ | .discarding _ _ => x.counters.addRxDiscarded
    | .off | .settling | .idle | .echo _ => x.counters
  { x with
    receiver := if x.admin = .active then .settling else .off
    transmitter := x.transmitter.cutShort
    completions := []
    counters := counters
    scheduler := emptyScheduler }

def PerPort.map {α β : Type} (f : α → β) (v : PerPort α) : PerPort β :=
  { trunk := f v.trunk, b1 := f v.b1, b2 := f v.b2, b3 := f v.b3, b4 := f v.b4 }

/-- The Management Agent at a warm restart (R190, Table 10-1). -/
def Agent.warm (a : Agent) : Agent :=
  { a with replay := none, executing := none, restartPending := none, requests := [], forwarding := false, restartSeen := true }

/-- A pending overlap depth takes effect at a warm restart, which frees every record (R153). -/
def FormatRecord.withDepth (f : FormatRecord) (depth : Option Nat) : FormatRecord :=
  { f with overlap := depth.getD f.overlap }

/-- Warm restart of every block, once the completions already raised are decided (R25, R47, R74, R92, R113, R116,
R126, R152, R153, R190). RESTARTED is posted by who performs it. The validation and reseed positions, which have no
meaning after it (R25), hold 0 (DESIGN CHOICE, entry 30). -/
def State.warmRestart (s : State) : State :=
  let s := State.decideRaised s.raisedBound s
  let ports := s.ports.map PortState.warm
  { s with
    ports := { ports with trunk := { ports.trunk with format := ports.trunk.format.withDepth s.trunk.pendingDepth } }
    trunk := { s.trunk with pendingFormat := none, pendingDepth := none }
    pool := freePool s.pool.cells
    routes := { s.routes with shadow := s.routes.shadow.afterWarm, validatePos := 0, reseedPos := 0 }
    exchanges := { s.exchanges with records := [], nextSeq := 0 }
    agent := s.agent.warm }

/-- Cold reset with the straps as their pins stand (R26, R75, R93, R114, R172, R189). -/
def State.coldReset (s : State) : State :=
  State.cold s.straps.maddrPin s.straps.tbaudPin (s.ports.map PortState.rxPin) s.pool.cells s.pending

/-- COLD_RESET: the straps carry the given levels (R93, R189). No other command changes the strap pins, so a cold
restart by command samples the levels of the last COLD_RESET (DESIGN CHOICE, entry 5). -/
def execColdReset (maddr : BitVec 4) (tbaud : BitVec 2) (s : State) : Host.Outcome State Fault Refusal :=
  .next ({ s with straps := { s.straps with maddrPin := maddr, tbaudPin := tbaud } } : State).coldReset

/-- TRUNK_BREAK: the trunk's space count has reached the break-restart length (R132). It acts while the break is
ARMED and the line at space. -/
def execTrunkBreak (s : State) : Host.Outcome State Fault Refusal :=
  if s.trunk.breakState = .armed ∧ (s.port .trunk).rxPin = .space then
    let timed := s.onPort .trunk fun x =>
      { x with spaceCount := max x.spaceCount s.agent.settings.breakLength, limitReached := false }
    let spent : State := { timed with trunk := { timed.trunk with breakState := .spent } }
    .next (spent.warmRestart.post .restarted none none (some restartedByBreak))
  else .next s

/-! ### The management reply's leaving (R111, R152, R153, R186, R187) -/

/-- Install the pending trunk format; a lower overlap depth waits while more records target T than it allows (R152,
R153). A held trunk head is decided again. A depth that still waits from an earlier format is dropped with that format
(DESIGN CHOICE, entry 31). -/
def State.installPending (s : State) : State :=
  match s.trunk.pendingFormat with
  | none => s
  | some f =>
    let old := (s.port .trunk).format.overlap
    let wait := decide (f.overlap < s.exchanges.openCount .trunk)
    (({ s with trunk := { s.trunk with pendingFormat := none, pendingDepth := if wait then some f.overlap else none } } :
      State).onPort .trunk fun x => { x with format := if wait then { f with overlap := old } else f }).redecide

/-- The reply's entry has left the trunk queue by completion or abandon: the pending format takes effect, then a
pending restart is performed (R152, R187 to R189). -/
def State.replyLeft (s : State) : State :=
  let s := s.installPending
  match s.agent.restartPending with
  | none => s
  | some .warm => s.warmRestart.post .restarted none none (some restartedByCommand)
  | some .cold => s.coldReset

end Sys2Proof.Machine
end

