-- ==== Sys2Proof/Machine/Transmission.lean ====
section
/-! DEFINITION. Events of a transmission (sections 5.2 to 5.4, 7.4): LINE_RELEASE, BACKOFF_END, ECHO_MISSING,
ATTEMPT_COMPLETION, DRIVER_ENABLE_RELEASE, and the collision and abandon that an echo check may bring. -/

namespace Sys2Proof.Machine

/-- The most the consecutive-abandon count shows (R96, R107). -/
def abandonsMax : Nat := 15

/-- The backoff gap before retry `n` on port `p` in bit-times (R105). -/
def backoffGap (guardGap n : Nat) (p : Port) : Nat := guardGap + 12 * n + 3 * p.number

/-- The head is abandoned (R106, R107): it leaves, TX_ABANDONED, the exchange closes, the count rises; the reply's
leaving is acted on after the scheduler's own part (R111). At its abandon limit a branch faults CONTENTION. -/
def State.abandonHead (s : State) (p : Port) (e : QueueEntry) : State :=
  let gone := ((s.popHead p e).post .txAbandoned (some p) (some e.line) none).requestLost p e.desc
  let counted := gone.onScheduler p fun c => { c with abandons := min abandonsMax (c.abandons + 1) }
  let left := if e.desc = 0 then counted.replyLeft else counted
  if p.isBranch ∧ (left.port p).format.abandonLimit ≤ (left.scheduler p).abandons then left.faultPort p .contention
  else left.decideHead p

/-- A collision of the head on the line (R104, R105): counted, the transmission cut, then BACKOFF or abandon. -/
def State.collide (s : State) (p : Port) (e : QueueEntry) : State :=
  let n := (s.scheduler p).attempts + 1
  let f := (s.port p).format
  let cut :=
    ((s.count p Counters.addCollision).onPort p fun x => { x with transmitter := x.transmitter.cutShort }).onScheduler p
      fun c => { c with attempts := n }
  if n ≤ f.retryLimit then cut.onScheduler p fun c => { c with phase := .backoff, backoffGap := backoffGap f.guardGap n p }
  else cut.abandonHead p e

/-- The head of a scheduler that is ON_LINE, and the position its echo check has reached (R102). -/
def State.onLine (s : State) (p : Port) : Option (QueueEntry × Nat) :=
  match (s.scheduler p).phase, (s.scheduler p).queue, (s.port p).receiver with
  | .onLine, e :: _, .echo pos => some (e, pos)
  | _, _, _ => none

/-- The length of an entry's telegram (R101). -/
def State.entryLength (s : State) (e : QueueEntry) : Nat := (s.pool.descriptor e.desc).length

/-- LINE_RELEASE: the mark span reaches the guard (R128). The line monitor enters RELEASED from BUSY and reports it: a
RESERVED head is decided again and starts, any other scheduler lets it pass. -/
def execLineRelease (p : Port) (s : State) : Host.Outcome State Fault Refusal :=
  let x := s.port p
  if x.monitor = .busy ∧ x.quiet then
    let released := s.onPort p fun x => { x.spanReached (x.format.span x.format.guardGap) with monitor := .released }
    .next (if (s.scheduler p).phase = .reserved then released.decideHead p else released)
  else .next s

/-- BACKOFF_END: the whole backoff gap of mark has passed (R109). The next attempt starts at once, without hold
conditions and without an opening; the line is released at that moment. -/
def execBackoffEnd (p : Port) (s : State) : Host.Outcome State Fault Refusal :=
  let x := s.port p
  if x.scheduler.phase = .backoff ∧ x.quiet then
    let released := s.onPort p fun x =>
      { x.spanReached (x.format.span x.scheduler.backoffGap) with
        monitor := if x.monitor = .busy then .released else x.monitor }
    .next (released.startAttempt p)
  else .next s

/-- ECHO_MISSING: no echo of the character being sent was taken by the end of its stop bits (R102). A collision. It is
taken wherever the transmitter stands in that character (DESIGN CHOICE, entry 1). -/
def execEchoMissing (p : Port) (s : State) : Host.Outcome State Fault Refusal :=
  match s.onLine p with
  | some (e, pos) =>
    if pos < s.entryLength e then .next ((s.onPort p fun x => x.characterEnded 0).collide p e) else .next s
  | none => .next s

/-- An attempt has completed (R103): the driver released, the head gone and counted, the completion reported. -/
def State.completeAttempt (s : State) (p : Port) (e : QueueEntry) : State :=
  let released := s.onPort p fun x => { x.characterEnded 0 with transmitter := .rest, receiver := .idle }
  let counted :=
    ((released.popHead p e).count p Counters.addTxTelegram).onScheduler p fun c => { c with abandons := 0 }
  let sent : State :=
    match counted.exchanges.sendingRecord p e.desc with
    | some r => { counted with exchanges := counted.exchanges.change p r.line ExchangeRecord.sent }
    | none => counted
  let left := if e.desc = 0 then sent.replyLeft else sent
  left.decideHead p

/-- ATTEMPT_COMPLETION: the last stop bit of an attempt is sent and every character compared good (R103). Where the
transmitter has not reached the end of that stop bit, the bit ends here (DESIGN CHOICE, entry 1). -/
def execAttemptCompletion (p : Port) (s : State) : Host.Outcome State Fault Refusal :=
  match s.onLine p with
  | some (e, pos) => if pos = s.entryLength e then .next (s.completeAttempt p e) else .next s
  | none => .next s

/-- The attempt on the line has been cut and its last character is being finished (R147). -/
def Transmitter.isCut : Transmitter → Bool
  | .rest => false
  | .sending _ _ _ _ _ cut => cut

/-- DRIVER_ENABLE_RELEASE: a cut attempt has ended its character (R147, Table 7-6). The receiver leaves ECHO (R125),
and the mark span and backoff count run from that end (R105, R115). Where the transmitter has not reached that end, the
bit ends here (DESIGN CHOICE, entry 1). -/
def execDriverEnableRelease (p : Port) (s : State) : Host.Outcome State Fault Refusal :=
  if (s.port p).transmitter.isCut then
    .next (s.onPort p fun x =>
      { x.characterEnded 0 with
        transmitter := .rest
        receiver :=
          match x.receiver with
          | .echo _ => .idle
          | .off => .off
          | .settling => .settling
          | .idle => .idle
          | .inTelegram d storing => .inTelegram d storing
          | .discarding a n => .discarding a n })
  else .next s

end Sys2Proof.Machine
end

