-- ==== Sys2Proof/Machine/Reception.lean ====
section
/-! DEFINITION. Characters and telegrams received (sections 6.3, 6.4, 7.3): CHARACTER_REPORT, and what a reached end gap
does at its port. -/

namespace Sys2Proof.Machine

/-- The format that governs the character just ended: the one read at its start edge (R140), or the one in force where
no start edge was taken. -/
def PortState.charFormat (x : PortState) : FormatRecord :=
  match x.charReceiver with
  | .inCharacter f _ _ _ => f
  | .awaitMark | .awaitStart => x.format

/-- The damage of a telegram at its address character: a line fault first, then the late mark (R59, R79). -/
def addressDamage (r : CharReport) (late : Bool) : Option Damage :=
  (r.error.map CharError.damage).or (if late then some .late else none)

/-- A receiver takes an address character: the Exchange Monitor is told, then storage is taken, or the telegram is
discarded for want of a descriptor (R58, R59, R79, R80, R118). -/
def State.addressCharacter (s : State) (p : Port) (r : CharReport) : State :=
  let late := match s.exchanges.find p r.value with | some x => x.marksLate | none => false
  let told : State := { s with exchanges := s.exchanges.change p r.value ExchangeRecord.addressSeen }
  match told.pool.openTelegram p r.value (addressDamage r late) with
  | some (d, storing, q) =>
    ({ told with pool := q } : State).onPort p fun x => { x with receiver := .inTelegram d storing }
  | none =>
    (told.post .descriptorExhausted (some p) (some r.value) none).onPort p fun x =>
      { x with receiver := .discarding r.value 1 }

/-- A body character of a telegram held in descriptor `d` (R81 to R83, R120). The character's own fault is recorded
before OVERLENGTH or SHORTFALL (entry 12). -/
def State.bodyCharacter (s : State) (p : Port) (d : DescNo) (storing : Bool) (r : CharReport) : State :=
  let faulted := s.pool.recordDamage d (r.error.map CharError.damage)
  if storing then
    let stored := faulted.storeBody d r.value
    ({ s with pool := stored.2 } : State).onPort p fun x => { x with receiver := .inTelegram d stored.1 }
  else { s with pool := faulted }

/-- The echo check of one character (R102): what was sent in this position, against the report. -/
def echoGood (f : FormatRecord) (sent : Chr) (pos : Nat) (r : CharReport) : Bool :=
  let c := f.fit sent
  let marker := f.hasMarker && decide (pos = 0)
  decide (r.value = c) && (r.marker == marker) && (!f.hasParity || r.parityBit == f.parityBit c marker) && !r.stopSpace

/-- The format an attempt is sent in (R146). -/
def PortState.sentFormat (x : PortState) : FormatRecord :=
  match x.transmitter with
  | .sending f _ _ _ _ _ => f
  | .rest => x.format

/-- A report taken in ECHO goes to the Transmit Scheduler: a good character moves the check on, any other is a
collision. A report after the attempt was cut, or after its last character, compares with nothing (R102, R104). -/
def State.echoCharacter (s : State) (p : Port) (r : CharReport) : State :=
  match s.onLine p with
  | some (e, pos) =>
    if pos < s.entryLength e then
      if echoGood (s.port p).sentFormat (s.pool.sentChar e pos) pos r then
        s.onPort p fun x => { x with receiver := .echo (pos + 1) }
      else s.collide p e
    else s
  | none => s

/-- The port's receiver acts on a report by its state (Table 6-7). -/
def State.receiveCharacter (s : State) (p : Port) (f : FormatRecord) (r : CharReport) : State :=
  let opens := !f.hasMarker || r.marker
  match (s.port p).receiver with
  | .off | .settling => s
  | .idle => if opens then s.addressCharacter p r else s.count p Counters.addRxDiscarded
  | .inTelegram d storing =>
    if f.hasMarker && r.marker then (s.closeTelegram p).addressCharacter p r else s.bodyCharacter p d storing r
  | .discarding a n =>
    if f.hasMarker && r.marker then (s.closeTelegram p).addressCharacter p r
    else s.onPort p fun x => { x with receiver := .discarding a (min Config.maxTelegram (n + 1)) }
  | .echo _ => s.echoCharacter p r

/-- The line and the character receiver as a report leaves them (R142, Table 6-1): after a mark stop bit the character
ends with that bit and the next edge is awaited; after a space stop bit the return of mark is. -/
def State.afterReport (s : State) (p : Port) (f : FormatRecord) (r : CharReport) : State :=
  if r.stopSpace then
    let spaced := if (s.port p).rxPin = .mark then s.onPort p PortState.edge else s
    spaced.onPort p fun x => { x with charReceiver := .awaitMark, markSpan := 0, charTail := 0 }
  else (s.readMark p).onPort p fun x => { x.characterEnded f.stopTail with charReceiver := .awaitStart }

/-- CHARACTER_REPORT: one report at the sampling point of the first stop bit (R143). Where the character receiver has not
reached that point, or has no character begun, the character ends here (DESIGN CHOICE, entries 1 and 13). -/
def execCharacterReport (p : Port) (value : Chr) (marker parityBit : Bool) (error : Option CharError) (s : State) :
    Host.Outcome State Fault Refusal :=
  let f := (s.port p).charFormat
  let r := f.fitReport { value := value, marker := marker, parityBit := parityBit, error := error }
  .next ((s.afterReport p f r).receiveCharacter p f r)

/-- The end gap is reached on port `p` (R117, R122): SETTLING becomes IDLE, an open telegram's completion is raised. -/
def State.reachEndGap (s : State) (p : Port) : State :=
  let reached := s.onPort p fun x => x.spanReached (x.format.span x.format.endGap)
  match (s.port p).receiver with
  | .settling => reached.onPort p fun x => { x with receiver := .idle }
  | .inTelegram _ _ | .discarding _ _ => reached.closeTelegram p
  | .off | .idle | .echo _ => reached

end Sys2Proof.Machine
end

