-- ==== Sys2Proof/Machine/LineEvents.lean ====
section
/-! DEFINITION. Levels of a line and space held too long (sections 6.5, 6.6, 7.3): MARK_TO_SPACE_EDGE, RETURN_OF_MARK,
FALSE_START, SPACE_HELD, STUCK_FAULT. -/

namespace Sys2Proof.Machine

/-- MARK_TO_SPACE_EDGE (R115, R127, R130, R140): spans and counts start at 0, RELEASED becomes BUSY, and in AWAIT_START
a candidate start bit begins in the format in force. A backoff count is the mark span, so it stops too (R105). On a line
that reads space already, where the chip sees no edge, the counts start again just so and SPACE_HELD stays (DESIGN
CHOICE, entry 2). -/
def execMarkToSpaceEdge (p : Port) (s : State) : Host.Outcome State Fault Refusal :=
  .next (s.onPort p fun x =>
    { x.edge with
      charReceiver :=
        match x.charReceiver with
        | .awaitStart => .inCharacter x.format 0 0 []
        | .awaitMark => .awaitMark
        | .inCharacter f b t ls => .inCharacter f b t ls })

/-- RETURN_OF_MARK (R127, R130, R132, R142). On a line that reads mark already, as in the step after a cold reset, where
the chip sees no return, it is taken too: AWAIT_MARK becomes AWAIT_START, and on the trunk the break ARMED, before a tick
of mark has passed (R132, R144; DESIGN CHOICE, entry 2). -/
def execReturnOfMark (p : Port) (s : State) : Host.Outcome State Fault Refusal := .next (s.readMark p)

/-- The character receiver is in a candidate start bit. -/
def CharReceiver.inStartBit : CharReceiver → Bool
  | .awaitMark | .awaitStart => false
  | .inCharacter _ bit _ _ => bit = 0

/-- FALSE_START: at the start bit's sampling point the input reads mark (R140). It is taken at any tick of the start bit
(DESIGN CHOICE, entry 1), and in one that has been sampled as space already it is taken too and drops the character
(DESIGN CHOICE, entry 2). -/
def execFalseStart (p : Port) (s : State) : Host.Outcome State Fault Refusal :=
  if (s.port p).charReceiver.inStartBit then
    .next ((s.readMark p).onPort p fun x => { x with charReceiver := .awaitStart })
  else .next s

/-- SPACE_HELD: space has lasted longer than one character time (R127). -/
def execSpaceHeld (p : Port) (s : State) : Host.Outcome State Fault Refusal :=
  let x := s.port p
  if x.rxPin = .space ∧ x.monitor = .busy then
    .next (s.onPort p fun x =>
      { x with monitor := .spaceHeld, spaceSpan := max x.spaceSpan (x.format.charTime + 1) })
  else .next s

/-- STUCK_FAULT: an ACTIVE branch's space count reaches its stuck limit (R131). -/
def execStuckFault (p : Port) (s : State) : Host.Outcome State Fault Refusal :=
  let x := s.port p
  if p.isBranch ∧ x.admin = .active ∧ x.rxPin = .space then
    .next ((s.onPort p fun x => { x with spaceCount := max x.spaceCount x.format.stuckLimit }).faultPort p .stuck)
  else .next s

end Sys2Proof.Machine
end

