-- ==== Sys2Proof/Machine/ExchangeEvents.lean ====
section
/-! DEFINITION. The Exchange Monitor's time and the Notice Queue's posts: DEADLINE_EXPIRY, LINGER_EXPIRY,
NOTICE_POST. -/

namespace Sys2Proof.Machine

/-- DEADLINE_EXPIRY of the AWAITING record on the pair: the exchange closes NO_ANSWER and lingers (R57). -/
def execDeadlineExpiry (p : Port) (line : Chr) (s : State) : Host.Outcome State Fault Refusal :=
  match s.exchanges.find p line with
  | some r => if r.state = .awaiting then .next (s.closeExchange r .noAnswer) else .next s
  | none => .next s

/-- LINGER_EXPIRY of the LAPSED record on the pair, which has no late hold: it is freed silently (R66). -/
def execLingerExpiry (p : Port) (line : Chr) (s : State) : Host.Outcome State Fault Refusal :=
  match s.exchanges.find p line with
  | some r => if r.state = .lapsed ∧ r.lateHold = false then .next (s.freeRecord p line) else .next s
  | none => .next s

/-- NOTICE_POST: one post reaches the Notice Queue (R166). -/
def execNoticePost (kind : NoticeKind) (port : Option Port) (address : Option Chr) (detail : Option Word16) (s : State) :
    Host.Outcome State Fault Refusal :=
  .next (s.post kind port address detail)

end Sys2Proof.Machine
end

