-- ==== Sys2Proof/Machine/Reply.lean ====
section
/-! DEFINITION. Building a management reply and sending it or its kept copy (R175, R178). -/

namespace Sys2Proof.Machine

/-- The characters of a reply (R175, Table 10-3). -/
def State.replyChars (s : State) (id : RequestId) (a : Answer) : List Chr :=
  let body := [s.mgmtAddress, id.code + 0x80, id.seq, a.result.code, s.statusChar] ++ a.data
  body ++ twoChars (crc16 body)

/-- Offer descriptor 0's entry to the trunk's scheduler, into the place kept for it (R89, R95, R175 step 4). -/
def State.queueReply (s : State) : State :=
  s.enqueue .trunk { desc := 0, line := s.mgmtAddress, request := none }

/-- Build a reply, keep it for replay, end the executing command and queue the reply (R175). -/
def State.buildReply (s : State) (id : RequestId) (a : Answer) : State :=
  ({ s with
      pool := s.pool.writeReply s.mgmtAddress (s.replyChars id a)
      agent := { s.agent with replay := some id, executing := none } } : State).queueReply

/-- Answer the executing command, where it is the one of this code (R12, R17). -/
def State.answerExecuting (s : State) (code : Chr) (a : Answer) : State :=
  match s.agent.executing with
  | some id => if id.code = code then s.buildReply id a else s
  | none => s

end Sys2Proof.Machine
end

