-- ==== Sys2Proof/Machine/RouteEvents.lean ====
section
/-! DEFINITION. The Route Table Unit's own events (chapter 1): COUNT_REPORT, VALIDATION_STEP, RESEED_COPY. -/

namespace Sys2Proof.Machine

/-- The bank named is still active: the report counts against its entry (R20 to R22). -/
def State.takeCount (s : State) (p : Port) (a : Chr) : State :=
  match findEntry s.routes.activeBank p a with
  | none => s
  | some e =>
    let put (x : RouteEntry) : State :=
      { s with routes := s.routes.setActive (changeEntry s.routes.activeBank p a fun _ => x) }
    match e.count with
    | .unchanged => s
    | .counted x => put x
    | .retired x => (put x).post .allowanceRetired (some p) (some a) none
    | .reloaded x n => (put x).post .allowanceReloaded (some p) (some a) (some (BitVec.ofNat 16 n))

/-- COUNT_REPORT: a report of the Admission Unit is taken (R20). One that names a bank no longer active changes
nothing (R22). A report that is the same as none that waits is counted all the same (DESIGN CHOICE, entry 27). -/
def execCountReport (bank : BankId) (p : Port) (address : Chr) (s : State) : Host.Outcome State Fault Refusal :=
  let taken : State :=
    { s with routes := { s.routes with countReports := s.routes.countReports.erase ⟨bank, p, address⟩ } }
  .next (if bank = s.routes.active then taken.takeCount p address else taken)

/-- The data widths in force (R10). -/
def State.widths (s : State) : PerPort DataWidth := s.ports.map fun x => x.format.width

/-- A reseed that has copied the last active entry ends: shadow CLEAN, and the reply of a TABLE_DISCARD that waits for
it (R15, R17). The reseed position, which R15 gives no value after this, stays at the number of active entries (DESIGN
CHOICE, entry 30). -/
def State.endReseed (s : State) : State :=
  if s.routes.reseedDone then
    ({ s with routes := { s.routes with shadow := .clean } } : State).answerExecuting Command.tableDiscard.code
      (Answer.okWith [natChr s.routes.shadowBank.length])
  else s

/-- Validation has passed the last entry: the bank roles swap, the commit is answered, and the reseed begins; a reseed
of an empty active bank ends at once (R12, R15). The validation position, which R12 gives no value after this, stays one
past the last entry checked (DESIGN CHOICE, entry 30). -/
def State.commitSwap (s : State) : State :=
  let swapped : State := { s with routes := s.routes.swap }
  (swapped.answerExecuting Command.tableCommit.code
    (Answer.okWith [natChr swapped.routes.activeBank.length])).endReseed

/-- Validation ends at a failing entry (R11). The validation position, which R11 gives no value after this, stays at that
entry (DESIGN CHOICE, entry 30). -/
def State.commitConflict (s : State) (e : RouteEntry) (why : ConflictReason) : State :=
  ({ s with routes := { s.routes with shadow := .edited } } : State).answerExecuting Command.tableCommit.code
    { result := .conflict, data := [e.arrival.toChr, e.address, why.code] }

/-- VALIDATION_STEP: the next shadow entry is checked (R10). Where the validation position stays once validation has ended
is the model's choice (DESIGN CHOICE, entry 30). -/
def execValidationStep (s : State) : Host.Outcome State Fault Refusal :=
  if s.routes.shadow = .validating then
    match s.routes.shadowBank[s.routes.validatePos]? with
    | none => .next s.commitSwap
    | some e =>
      match e.conflict s.widths with
      | some why => .next (s.commitConflict e why)
      | none =>
        let next := s.routes.validatePos + 1
        let passed : State := { s with routes := { s.routes with validatePos := next } }
        .next (if next < s.routes.shadowBank.length then passed else passed.commitSwap)
  else .next s

/-- RESEED_COPY: the next active entry is copied into the shadow bank (R15). -/
def execReseedCopy (s : State) : Host.Outcome State Fault Refusal :=
  if s.routes.shadow = .reseeding then .next ({ s with routes := s.routes.copyNext } : State).endReseed
  else .next s

end Sys2Proof.Machine
end

