-- ==== Sys2Proof/Machine/Commands.lean ====
section
/-! DEFINITION. What each management command does, its parameters as received (section 10.3): the state it leaves and
the answer its reply carries. -/

namespace Sys2Proof.Machine

/-- STATUS (R182, Table 10-8). -/
def State.statusData (s : State) : List Chr :=
  [natChr s.straps.maddr.toNat, natChr s.straps.tbaud.toNat, natChr s.pool.freeDescriptorCount,
   natChr s.pool.free.length, natChr s.exchanges.records.length, natChr s.notices.records.length]
    ++ twoChars s.notices.nextStamp

/-- FORWARDING (R35, Table 2-5). -/
def State.doForwarding (s : State) (value : Chr) : State × Answer :=
  match value.toNat with
  | 0 => ({ s with agent := { s.agent with forwarding := false } }, Answer.okWith [])
  | 1 => ({ s with agent := { s.agent with forwarding := true } }, Answer.okWith [])
  | _ => (s, Answer.refuse .range)

/-- PORT_READ (R163). -/
def State.doPortRead (s : State) (port : Chr) : State × Answer :=
  match Port.ofChr port with
  | some p => (s, Answer.okWith (portReadData p (s.port p)))
  | none => (s, Answer.refuse .range)

/-- PORT_FORMAT (R150 to R152, Table 8-2): at once on a DISABLED branch, pending on the trunk. -/
def State.doPortFormat (s : State) (params : List Chr) : State × Answer :=
  match Port.ofChr (param params 0), parseFormat (params.drop 1) with
  | some .trunk, some f =>
    if f.trunkOk then ({ s with trunk := { s.trunk with pendingFormat := some f } }, Answer.okWith [])
    else (s, Answer.refuse .range)
  | some p, some f =>
    if (s.port p).admin = .disabled then (s.onPort p fun x => { x with format := f }, Answer.okWith [])
    else (s, Answer.refuse .state)
  | _, _ => (s, Answer.refuse .range)

/-- The receiver, scheduler and fault reason of a branch that comes into service (R155, R158). -/
def State.activate (s : State) (p : Port) : State :=
  s.onPort p fun x =>
    { x with
      admin := .active
      lastFault := none
      limitReached := false
      receiver := .settling
      scheduler := { x.scheduler with phase := .empty, attempts := 0, abandons := 0 } }

/-- ENABLE (R155, R160). -/
def State.doEnable (s : State) (p : Port) : State × Answer :=
  if p.isBranch then
    match (s.port p).admin with
    | .disabled => (s.activate p, Answer.okWith [])
    | .active => (s, Answer.okWith [])
    | .faulted => (s, Answer.refuse .state)
  else (s, Answer.refuse .state)

/-- DISABLE (R156, R160). -/
def State.doDisable (s : State) (p : Port) : State × Answer :=
  if p.isBranch then
    match (s.port p).admin with
    | .disabled => (s, Answer.okWith [])
    | .active => ((s.portLoss p .disabled).onPort p fun x => { x with lastFault := none }, Answer.okWith [])
    | .faulted => (s.onPort p fun x => { x with admin := .disabled, lastFault := none }, Answer.okWith [])
  else (s, Answer.refuse .state)

/-- RECOVER (R158, R160). -/
def State.doRecover (s : State) (p : Port) : State × Answer :=
  if p.isBranch ∧ (s.port p).admin = .faulted ∧ (s.port p).rxPin = .mark then (s.activate p, Answer.okWith [])
  else (s, Answer.refuse .state)

/-- Entries that have left a queue give up their references, in queue order (R86). -/
def State.dropEntries (s : State) (es : List QueueEntry) : State :=
  { s with pool := es.foldl (fun pool e => pool.dropRef e.desc) s.pool }

/-- The entries a PURGE removes: all but one on the line (R110). -/
def Scheduler.purged (c : Scheduler) : List QueueEntry :=
  match c.phase with
  | .onLine => c.queue.tail
  | .empty | .headHeld | .reserved | .backoff => c.queue

/-- The scheduler after a PURGE (R110). -/
def Scheduler.afterPurge (c : Scheduler) : Scheduler :=
  match c.phase with
  | .onLine => { c with queue := c.queue.take 1 }
  | .empty | .headHeld | .reserved | .backoff => { c with queue := [], phase := .empty, attempts := 0, backoffGap := 0 }

/-- PURGE (R110, R160): every entry not on the line leaves. A head in BACKOFF has started an attempt, so its exchange
closes as it leaves; then the entries behind it leave. The Exchange Monitor's EXCHANGE_CLOSED and STANDIN_LOST, which
R65 and R167 let stand before or after PURGED, are posted before it (DESIGN CHOICE, entry 4). -/
def State.doPurge (s : State) (p : Port) : State × Answer :=
  let c := s.scheduler p
  let gone := c.purged
  let emptied := s.onScheduler p Scheduler.afterPurge
  let removed :=
    match c.phase, gone with
    | .backoff, e :: rest => ((emptied.dropEntries [e]).requestLost p e.desc).dropEntries rest
    | _, es => emptied.dropEntries es
  let posted :=
    if gone.isEmpty then removed else removed.post .purged (some p) none (some (BitVec.ofNat 16 gone.length))
  (posted, Answer.okWith [natChr gone.length])

/-- PORT_CONTROL (R160): the port and the action are checked first. -/
def State.doPortControl (s : State) (port action : Chr) : State × Answer :=
  match Port.ofChr port, action.toNat with
  | some p, 0 => s.doEnable p
  | some p, 1 => s.doDisable p
  | some p, 2 => s.doRecover p
  | some p, 3 => s.doPurge p
  | _, _ => (s, Answer.refuse .range)

/-- COUNTERS_CLEAR (R162). -/
def State.doCountersClear (s : State) (port : Chr) : State × Answer :=
  if port = 0xFF then
    ({ s with ports := s.ports.map fun x => { x with counters := zeroCounters } }, Answer.okWith [])
  else
    match Port.ofChr port with
    | some p => (s.onPort p fun x => { x with counters := zeroCounters }, Answer.okWith [])
    | none => (s, Answer.refuse .range)

/-- The shadow bank refuses edits, its reads and a commit: BUSY in VALIDATING or RESEEDING, STATE in STALE (R6, R7, R9). -/
def RouteUnit.editRefusal (r : RouteUnit) : Option Result :=
  match r.shadow with
  | .validating | .reseeding => some .busy
  | .stale => some .state
  | .clean | .edited => none

/-- The shadow bank with an edit made, EDITED (R6, R7). -/
def RouteUnit.edited (r : RouteUnit) (es : List RouteEntry) : RouteUnit := { (r.setShadow es) with shadow := .edited }

/-- ROUTE_WRITE (R3, R6). -/
def State.doRouteWrite (s : State) (params : List Chr) : State × Answer :=
  match s.routes.editRefusal with
  | some why => (s, Answer.refuse why)
  | none =>
    match parseRoute params with
    | none => (s, Answer.refuse .range)
    | some e =>
      let bank := s.routes.shadowBank
      if !e.legal s.mgmtAddress then (s, Answer.refuse .range)
      else if (findEntry bank e.arrival e.address).isNone ∧ Config.bankSize ≤ bank.length then (s, Answer.refuse .full)
      else
        let es := Sys2Proof.Machine.insertEntry e bank
        ({ s with routes := s.routes.edited es }, Answer.okWith [natChr es.length])

/-- ROUTE_DELETE (R7). -/
def State.doRouteDelete (s : State) (port address : Chr) : State × Answer :=
  match s.routes.editRefusal, Port.ofChr port with
  | some why, _ => (s, Answer.refuse why)
  | none, none => (s, Answer.refuse .range)
  | none, some p =>
    let bank := s.routes.shadowBank
    if (findEntry bank p address).isNone then (s, Answer.refuse .absent)
    else
      let es := removeEntry bank p address
      ({ s with routes := s.routes.edited es }, Answer.okWith [natChr es.length])

/-- The bank a parameter names, 00h active and 01h shadow, or why it cannot be read (R8, Table 10-6). -/
def RouteUnit.readable (r : RouteUnit) (bank : Chr) : Except Result (List RouteEntry) :=
  match bank.toNat with
  | 0 => .ok r.activeBank
  | 1 =>
    match r.shadow with
    | .reseeding => .error .busy
    | .stale => .error .state
    | .clean | .edited | .validating => .ok r.shadowBank
  | _ => .error .range

/-- ROUTE_READ (R8). A port outside 0 to 4 or a character that names no bank is refused RANGE before the shadow state
is looked at (section 10.3, under Table 10-6). -/
def State.doRouteRead (s : State) (bank port address : Chr) : State × Answer :=
  match Port.ofChr port, s.routes.readable bank with
  | none, _ => (s, Answer.refuse .range)
  | some _, .error why => (s, Answer.refuse why)
  | some p, .ok es =>
    match findEntry es p address with
    | some e => (s, Answer.okWith e.chars)
    | none => (s, Answer.refuse .absent)

/-- The most keys one ROUTE_LIST returns (R8). -/
def listMax : Nat := 40

/-- ROUTE_LIST (R8). A port outside 0 to 4 or a character that names no bank is refused RANGE before the shadow state
is looked at (section 10.3, under Table 10-6). -/
def State.doRouteList (s : State) (bank port address : Chr) : State × Answer :=
  match Port.ofChr port, s.routes.readable bank with
  | none, _ => (s, Answer.refuse .range)
  | some _, .error why => (s, Answer.refuse why)
  | some p, .ok es =>
    let keys := (es.filter fun e => decide (keyRank p address ≤ e.rank)).take listMax
    (s, Answer.okWith ([natChr keys.length] ++ keys.flatMap fun e => [e.arrival.toChr, e.address]))

/-- ROUTE_REARM (R23). A port outside 0 to 4 is refused RANGE before the shadow state is looked at (section 10.3, under
Table 10-6). -/
def State.doRouteRearm (s : State) (port address : Chr) : State × Answer :=
  match Port.ofChr port with
  | none => (s, Answer.refuse .range)
  | some p =>
    if s.routes.busy then (s, Answer.refuse .busy)
    else
      match findEntry s.routes.activeBank p address with
      | none => (s, Answer.refuse .absent)
      | some e =>
        if e.allowance.isNone then (s, Answer.refuse .state)
        else
          ({ s with routes := s.routes.setActive (changeEntry s.routes.activeBank p address RouteEntry.rearm) },
            Answer.okWith [])

/-- EXCHANGE_LIST (R73). -/
def State.doExchangeList (s : State) : State × Answer :=
  let rs := s.exchanges.oldestFirst s.exchanges.records
  (s, Answer.okWith ([natChr rs.length] ++ rs.flatMap ExchangeRecord.chars))

/-- NOTICE_READ (R168). -/
def State.doNoticeRead (s : State) (maximum : Chr) : State × Answer :=
  if inRange 1 24 maximum.toNat then
    let taken := s.notices.records.take maximum.toNat
    ({ s with notices := s.notices.drain maximum.toNat },
      Answer.okWith ([natChr taken.length] ++ taken.flatMap Notice.chars ++ twoChars s.notices.nextStamp))
  else (s, Answer.refuse .range)

/-- SETTINGS_WRITE (R184): a new divisor restarts the tick count. -/
def State.doSettingsWrite (s : State) (params : List Chr) : State × Answer :=
  match parseSettings params with
  | none => (s, Answer.refuse .range)
  | some t =>
    ({ s with
        agent := { s.agent with settings := t }
        exchanges :=
          { s.exchanges with tickCount := if t.divisor = s.agent.settings.divisor then s.exchanges.tickCount else 0 } },
      Answer.okWith [])

end Sys2Proof.Machine
end

