-- ==== Sys2Proof/Machine/Management.lean ====
section
/-! DEFINITION. The Management Agent's gates and dispatch (section 10.2): MGMT_REQUEST, and one meaning for each
management command of the table. -/

namespace Sys2Proof.Machine

/-- Execute a command whose parameters are as many as it takes (R179), and build its reply at the moment Table 10-6
gives. `executing` holds the command until its reply is built. -/
def State.execute (s : State) (k : Command) (id : RequestId) (params : List Chr) : State :=
  let s : State := { s with agent := { s.agent with executing := some id } }
  let answered (r : State × Answer) : State := r.1.buildReply id r.2
  match k with
  | .status =>
    let t := s.buildReply id (Answer.okWith s.statusData)
    { t with agent := { t.agent with restartSeen := false } }
  | .forwarding => answered (s.doForwarding (param params 0))
  | .portRead => answered (s.doPortRead (param params 0))
  | .portFormat => answered (s.doPortFormat params)
  | .portControl => answered (s.doPortControl (param params 0) (param params 1))
  | .countersClear => answered (s.doCountersClear (param params 0))
  | .routeWrite => answered (s.doRouteWrite params)
  | .routeDelete => answered (s.doRouteDelete (param params 0) (param params 1))
  | .routeRead => answered (s.doRouteRead (param params 0) (param params 1) (param params 2))
  | .routeList => answered (s.doRouteList (param params 0) (param params 1) (param params 2))
  | .tableCommit =>
    match s.routes.editRefusal with
    | some why => s.buildReply id (Answer.refuse why)
    | none =>
      let started : State := { s with routes := { s.routes with shadow := .validating, validatePos := 0 } }
      if s.routes.shadowBank.isEmpty then started.commitSwap else started
  | .tableDiscard =>
    if s.routes.busy then s.buildReply id (Answer.refuse .busy)
    else ({ s with routes := s.routes.startReseed } : State).endReseed
  | .routeRearm => answered (s.doRouteRearm (param params 0) (param params 1))
  | .exchangeList => answered s.doExchangeList
  | .noticeRead => answered (s.doNoticeRead (param params 0))
  | .settingsWrite => answered (s.doSettingsWrite params)
  | .settingsRead => answered (s, Answer.okWith s.agent.settings.chars)
  | .restart =>
    match (param params 0).toNat with
    | 0 =>
      let t := s.buildReply id (Answer.okWith [])
      { t with agent := { t.agent with restartPending := some .warm } }
    | 1 =>
      let t := s.buildReply id (Answer.okWith [])
      { t with agent := { t.agent with restartPending := some .cold } }
    | _ => s.buildReply id (Answer.refuse .range)

/-- Dispatch by command code and number of parameters (R179). -/
def State.dispatch (s : State) (id : RequestId) (params : List Chr) : State :=
  match Command.ofCode id.code with
  | none => s.buildReply id (Answer.refuse .unknown)
  | some k => if k.countOk params then s.execute k id params else s.buildReply id (Answer.refuse .length)

/-- A reply is queued or on the line, or a command is executing (R177). -/
def State.agentBusy (s : State) : Bool :=
  decide ((s.pool.descriptor 0).refs ≠ 0) || s.agent.executing.isSome

/-- A request past its length and CRC checks meets the overrun gate, the replay comparison and dispatch (R177 to
R179). -/
def State.takeRequest (s : State) (id : RequestId) (params : List Chr) : State :=
  if s.agentBusy then s.post .mgmtOverrun (some .trunk) none none
  else if s.agent.replay = some id then s.queueReply
  else s.dispatch id params

/-- Why a request is rejected, the first condition met (R176, Table 10-4a). -/
def rejection (cs : List Chr) : Option RejectReason :=
  if cs.length < 5 then some .short
  else if 64 < cs.length then some .long
  else if twoChars (crc16 (cs.take (cs.length - 2))) = cs.drop (cs.length - 2) then none
  else some .check

/-- The agent takes the oldest request handed to it, if there is one, gives up its descriptor and decides it (R87, R173,
R176). -/
def State.takeHanded (s : State) : State :=
  match s.agent.requests with
  | [] => s
  | d :: rest =>
    let cs := s.pool.telegram d
    let taken : State := { s with agent := { s.agent with requests := rest }, pool := s.pool.giveUp d }
    match rejection cs with
    | some why => taken.post .mgmtRejected (some .trunk) none (some why.code)
    | none => taken.takeRequest { seq := param cs 2, code := param cs 1 } ((cs.drop 3).take (cs.length - 5))

/-- MGMT_REQUEST (R176). -/
def execMgmtRequest (s : State) : Host.Outcome State Fault Refusal := .next s.takeHanded

/-! ### The commands of the table

Each stands for a request of that command that has passed R176, with its sequence number and parameters (entry 9). -/

/-- Present a request of command `k`. -/
def State.request (s : State) (k : Command) (seq : Chr) (params : List Chr) : Host.Outcome State Fault Refusal :=
  .next (s.takeRequest { seq := seq, code := k.code } params)

/-- STATUS (R182). -/
def execStatus (seq : Chr) (s : State) : Host.Outcome State Fault Refusal := s.request .status seq []

/-- FORWARDING (R35). -/
def execForwarding (seq value : Chr) (s : State) : Host.Outcome State Fault Refusal := s.request .forwarding seq [value]

/-- PORT_READ (R163). -/
def execPortRead (seq port : Chr) (s : State) : Host.Outcome State Fault Refusal := s.request .portRead seq [port]

/-- PORT_FORMAT (R150). -/
def execPortFormat (seq : Chr) (params : List Chr) (s : State) : Host.Outcome State Fault Refusal :=
  s.request .portFormat seq params

/-- PORT_CONTROL with action ENABLE (R155). -/
def execEnable (seq port : Chr) (s : State) : Host.Outcome State Fault Refusal := s.request .portControl seq [port, 0x00]

/-- PORT_CONTROL with action DISABLE (R156). -/
def execDisable (seq port : Chr) (s : State) : Host.Outcome State Fault Refusal := s.request .portControl seq [port, 0x01]

/-- PORT_CONTROL with action RECOVER (R158). -/
def execRecover (seq port : Chr) (s : State) : Host.Outcome State Fault Refusal := s.request .portControl seq [port, 0x02]

/-- PORT_CONTROL with action PURGE (R110). -/
def execPurge (seq port : Chr) (s : State) : Host.Outcome State Fault Refusal := s.request .portControl seq [port, 0x03]

/-- COUNTERS_CLEAR (R162). -/
def execCountersClear (seq port : Chr) (s : State) : Host.Outcome State Fault Refusal :=
  s.request .countersClear seq [port]

/-- The characters of a route entry record (Table 10-9). -/
def routeRecord (port address dests flags egress : Chr) (window count reload : Word16) : List Chr :=
  [port, address, dests, flags, egress] ++ twoChars window ++ twoChars count ++ twoChars reload

/-- ROUTE_WRITE (R6). -/
def execRouteWrite (seq port address dests flags egress : Chr) (window count reload : Word16) (s : State) :
    Host.Outcome State Fault Refusal :=
  s.request .routeWrite seq (routeRecord port address dests flags egress window count reload)

/-- ROUTE_DELETE (R7). -/
def execRouteDelete (seq port address : Chr) (s : State) : Host.Outcome State Fault Refusal :=
  s.request .routeDelete seq [port, address]

/-- ROUTE_READ (R8). -/
def execRouteRead (seq bank port address : Chr) (s : State) : Host.Outcome State Fault Refusal :=
  s.request .routeRead seq [bank, port, address]

/-- ROUTE_LIST (R8). -/
def execRouteList (seq bank port address : Chr) (s : State) : Host.Outcome State Fault Refusal :=
  s.request .routeList seq [bank, port, address]

/-- TABLE_COMMIT (R9). -/
def execTableCommit (seq : Chr) (s : State) : Host.Outcome State Fault Refusal := s.request .tableCommit seq []

/-- TABLE_DISCARD (R17). -/
def execTableDiscard (seq : Chr) (s : State) : Host.Outcome State Fault Refusal := s.request .tableDiscard seq []

/-- ROUTE_REARM (R23). -/
def execRouteRearm (seq port address : Chr) (s : State) : Host.Outcome State Fault Refusal :=
  s.request .routeRearm seq [port, address]

/-- EXCHANGE_LIST (R73). -/
def execExchangeList (seq : Chr) (s : State) : Host.Outcome State Fault Refusal := s.request .exchangeList seq []

/-- NOTICE_READ (R168). -/
def execNoticeRead (seq maximum : Chr) (s : State) : Host.Outcome State Fault Refusal :=
  s.request .noticeRead seq [maximum]

/-- SETTINGS_WRITE (R184). -/
def execSettingsWrite (seq : Chr) (record : List Chr) (s : State) : Host.Outcome State Fault Refusal :=
  s.request .settingsWrite seq record

/-- SETTINGS_READ (R185). -/
def execSettingsRead (seq : Chr) (s : State) : Host.Outcome State Fault Refusal := s.request .settingsRead seq []

/-- RESTART (R187). -/
def execRestart (seq value : Chr) (s : State) : Host.Outcome State Fault Refusal := s.request .restart seq [value]

end Sys2Proof.Machine
end

