-- ==== Sys2Proof/Machine/EndGap.lean ====
section
/-! DEFINITION. END_GAP, and the turnaround of a management request that ends there (R196). -/

namespace Sys2Proof.Machine

/-- The telegram open on port `p` is a management request: undamaged, on the trunk, to the management address (R32). -/
def State.requestOpen (s : State) (p : Port) : Bool :=
  match p, openCompletion s.pool (s.port p).receiver with
  | .trunk, some c => c.desc.isSome && c.damage.isNone && decide (c.address = s.mgmtAddress)
  | _, _ => false

/-- The trunk's raised completions are decided in their order, then the requests handed to the agent (R27, R32, R176). -/
def State.serveTrunk (s : State) : State :=
  let admitted := (s.port .trunk).completions.foldl (fun t _ => t.takeCompletion .trunk) s
  admitted.agent.requests.foldl (fun t _ => t.takeHanded) admitted

/-- END_GAP: the mark span reaches the end gap (R117, R122). A management request that ends here is decided in this very
step, so that the reply of a command answered at once is offered in the step that raises the request's completion (R196);
what a sender has left waiting before it on the trunk is decided before it (entry 32). -/
def execEndGap (p : Port) (s : State) : Host.Outcome State Fault Refusal :=
  if (s.port p).quiet then
    .next (if s.requestOpen p then (s.reachEndGap p).serveTrunk else s.reachEndGap p)
  else .next s

end Sys2Proof.Machine
end

