-- ==== Sys2Proof/Machine/Dispatch.lean ====
section
/-! DEFINITION. The command's effect on everything but the queue: one arm per constructor of Instr. -/

namespace Sys2Proof.Machine

def exec (i : Instr) (s : State) : Host.Outcome State Fault Refusal :=
  match i with
  | .coldReset maddr tbaud => Sys2Proof.Machine.execColdReset maddr tbaud s
  | .characterReport p value marker parityBit error => Sys2Proof.Machine.execCharacterReport p value marker parityBit error s
  | .echoMissing p => Sys2Proof.Machine.execEchoMissing p s
  | .endGap p => Sys2Proof.Machine.execEndGap p s
  | .telegramCompletion p => Sys2Proof.Machine.execTelegramCompletion p s
  | .countReport bank p address => Sys2Proof.Machine.execCountReport bank p address s
  | .lineRelease p => Sys2Proof.Machine.execLineRelease p s
  | .backoffEnd p => Sys2Proof.Machine.execBackoffEnd p s
  | .attemptCompletion p => Sys2Proof.Machine.execAttemptCompletion p s
  | .deadlineExpiry p line => Sys2Proof.Machine.execDeadlineExpiry p line s
  | .lingerExpiry p line => Sys2Proof.Machine.execLingerExpiry p line s
  | .spaceHeld p => Sys2Proof.Machine.execSpaceHeld p s
  | .stuckFault p => Sys2Proof.Machine.execStuckFault p s
  | .trunkBreak => Sys2Proof.Machine.execTrunkBreak s
  | .validationStep => Sys2Proof.Machine.execValidationStep s
  | .reseedCopy => Sys2Proof.Machine.execReseedCopy s
  | .noticePost kind port address detail => Sys2Proof.Machine.execNoticePost kind port address detail s
  | .mgmtRequest => Sys2Proof.Machine.execMgmtRequest s
  | .status seq => Sys2Proof.Machine.execStatus seq s
  | .forwarding seq value => Sys2Proof.Machine.execForwarding seq value s
  | .portRead seq port => Sys2Proof.Machine.execPortRead seq port s
  | .portFormat seq params => Sys2Proof.Machine.execPortFormat seq params s
  | .enable seq port => Sys2Proof.Machine.execEnable seq port s
  | .disable seq port => Sys2Proof.Machine.execDisable seq port s
  | .recover seq port => Sys2Proof.Machine.execRecover seq port s
  | .purge seq port => Sys2Proof.Machine.execPurge seq port s
  | .countersClear seq port => Sys2Proof.Machine.execCountersClear seq port s
  | .routeWrite seq port address dests flags egress window count reload => Sys2Proof.Machine.execRouteWrite seq port address dests flags egress window count reload s
  | .routeDelete seq port address => Sys2Proof.Machine.execRouteDelete seq port address s
  | .routeRead seq bank port address => Sys2Proof.Machine.execRouteRead seq bank port address s
  | .routeList seq bank port address => Sys2Proof.Machine.execRouteList seq bank port address s
  | .tableCommit seq => Sys2Proof.Machine.execTableCommit seq s
  | .tableDiscard seq => Sys2Proof.Machine.execTableDiscard seq s
  | .routeRearm seq port address => Sys2Proof.Machine.execRouteRearm seq port address s
  | .exchangeList seq => Sys2Proof.Machine.execExchangeList seq s
  | .noticeRead seq maximum => Sys2Proof.Machine.execNoticeRead seq maximum s
  | .settingsWrite seq record => Sys2Proof.Machine.execSettingsWrite seq record s
  | .settingsRead seq => Sys2Proof.Machine.execSettingsRead seq s
  | .restart seq value => Sys2Proof.Machine.execRestart seq value s
  | .markToSpaceEdge p => Sys2Proof.Machine.execMarkToSpaceEdge p s
  | .returnOfMark p => Sys2Proof.Machine.execReturnOfMark p s
  | .falseStart p => Sys2Proof.Machine.execFalseStart p s
  | .driverEnableRelease p => Sys2Proof.Machine.execDriverEnableRelease p s

end Sys2Proof.Machine
end

