-- ==== Sys2Proof/Machine/Clock.lean ====
section
/-! DEFINITION. What the chip does by itself while no command waits (entry 3): the event of its own that has fallen
due, and one tick of the reference clock (R135). -/

namespace Sys2Proof.Machine

/-! ### One tick of a port -/

/-- The character receiver over the tick that now ends, `pin` being the level of that tick (R136, R140, R141): where the
tick is the sampling point of its bit the level is the bit's value, and the next tick of the bit or the next bit's first
tick follows. What the sampling points of the start bit and of the first stop bit bring about, a false start and the
character's report, is an event due within their tick (`PortState.dueCharacter`), and so comes before it ends. -/
def CharReceiver.tick (r : CharReceiver) (pin : Level) : CharReceiver :=
  match r with
  | .awaitMark => match pin with | .mark => .awaitStart | .space => .awaitMark
  | .awaitStart => .awaitStart
  | .inCharacter f bit t ls =>
    let sampled := if t = f.samplePoint bit then ls ++ [pin] else ls
    if f.entry bit ≤ t + 1 then .inCharacter f (bit + 1) 0 sampled else .inCharacter f bit (t + 1) sampled

/-- The transmitter over one tick (R145, R146): the next tick, the next bit, and after the last bit of a character
that compared good the first bit of the next one. `compared` is the number of echoes compared good, `next` the next
character where the telegram goes on. -/
def Transmitter.tick (x : Transmitter) (compared : Nat) (next : Nat → Option Chr) : Transmitter :=
  match x with
  | .rest => .rest
  | .sending f i ls bit t cut =>
    if ls.length ≤ bit then .sending f i ls bit t cut
    else if t + 1 < f.entry bit then .sending f i ls bit (t + 1) cut
    else if bit + 1 < ls.length then .sending f i ls (bit + 1) 0 cut
    else
      match cut, decide (i < compared), next (i + 1) with
      | false, true, some c => .sending f (i + 1) (f.levels c false) 0 0 false
      | _, _, _ => .sending f i ls (bit + 1) 0 cut

/-- The mark span over one tick, once the last character's stop bit is over (R115). -/
def PortState.tickSpans (x : PortState) : PortState :=
  if x.quiet then
    if x.charTail = 0 then { x with markSpan := x.markSpan + 1 } else { x with charTail := x.charTail - 1 }
  else
    match x.rxPin with
    | .space => { x with spaceSpan := x.spaceSpan + 1 }
    | .mark => x

/-- The number of echoes of the present attempt compared good (R102). -/
def Receiver.compared : Receiver → Nat
  | .echo n => n
  | .off | .settling | .idle | .inTelegram _ _ | .discarding _ _ => 0

/-- The character in place `i` of the attempt on the line, absent past the telegram's end. -/
def State.nextSent (s : State) (p : Port) (i : Nat) : Option Chr :=
  match (s.scheduler p).phase, (s.scheduler p).queue with
  | .onLine, e :: _ => if i < s.entryLength e then some (s.pool.sentChar e i) else none
  | _, _ => none

/-- One tick of one port's line. -/
def State.tickPort (s : State) (p : Port) : State :=
  s.onPort p fun x =>
    let y := x.tickSpans
    { y with
      charReceiver := x.charReceiver.tick x.rxPin
      transmitter := x.transmitter.tick x.receiver.compared (s.nextSent p) }

/-! ### The millisecond boundary -/

/-- The trunk's break is armed again at the first tick on which the line is mark (R132). -/
def State.rearmBreak (s : State) : State :=
  match (s.port .trunk).rxPin with
  | .mark => { s with trunk := { s.trunk with breakState := .armed } }
  | .space => s

/-- The limit a port's space count is compared with, where it is compared (R130 to R132). -/
def State.spaceLimit (s : State) (p : Port) : Option Nat :=
  match p with
  | .trunk => if s.trunk.breakState = .armed then some s.agent.settings.breakLength else none
  | .b1 | .b2 | .b3 | .b4 => if (s.port p).admin = .active then some (s.port p).format.stuckLimit else none

/-- A boundary that finds the line at space: the count rises, and is compared (R130). -/
def State.boundaryPort (s : State) (p : Port) : State :=
  match (s.port p).rxPin with
  | .mark => s
  | .space =>
    let n := bump (s.port p).spaceCount
    let reached := match s.spaceLimit p with | some limit => decide (limit ≤ n) | none => false
    s.onPort p fun x => { x with spaceCount := n, limitReached := reached }

/-- The millisecond base over one tick: at the divisor a boundary, which every record and every port meets (R51). -/
def State.tickBase (s : State) : State :=
  let n := s.exchanges.tickCount + 1
  if n < s.agent.settings.divisor then { s with exchanges := { s.exchanges with tickCount := n } }
  else
    Port.all.foldl State.boundaryPort
      { s with exchanges :=
          { s.exchanges with tickCount := 0, records := s.exchanges.records.map ExchangeRecord.millisecond } }

/-- One tick of REFCK (R135). -/
def State.tick (s : State) : State := ((Port.all.foldl State.tickPort s).rearmBreak).tickBase

/-! ### Events that have fallen due -/

/-- The attempt's last bit has been sent and no further character begun. -/
def Transmitter.ended : Transmitter → Bool
  | .rest => false
  | .sending _ _ ls bit _ _ => decide (ls.length ≤ bit)

/-- What a port's transmitter at the end of a character calls for (R102, R103, R147). -/
def State.dueTransmit (s : State) (p : Port) : Option Instr :=
  let x := s.port p
  if x.transmitter.ended then
    if x.transmitter.isCut then some (.driverEnableRelease p)
    else
      match s.onLine p with
      | some (e, pos) =>
        if pos = s.entryLength e then some (.attemptCompletion p)
        else if pos < s.entryLength e then some (.echoMissing p)
        else none
      | none => none
  else none

/-- What a sampling point reached in this tick calls for (R140 to R143): at the start bit's a false start where the line
reads mark, at the first stop bit's the report of the character, made of the bits sampled before it and this one. -/
def PortState.dueCharacter (x : PortState) (p : Port) : Option Instr :=
  match x.charReceiver with
  | .awaitMark | .awaitStart => none
  | .inCharacter f bit t ls =>
    if t = f.samplePoint bit then
      if bit = 0 ∧ x.rxPin = .mark then some (.falseStart p)
      else if bit = f.firstStop then
        let r := f.report (ls ++ [x.rxPin])
        some (.characterReport p r.value r.marker r.parityBit r.error)
      else none
    else none

/-- A receiver that a reached end gap changes (R117, R122). -/
def Receiver.awaitsGap : Receiver → Bool
  | .settling | .inTelegram _ _ | .discarding _ _ => true
  | .off | .idle | .echo _ => false

/-- The end gap is reached (R117, R122). -/
def PortState.dueEndGap (x : PortState) (p : Port) : Option Instr :=
  if x.quiet ∧ x.receiver.awaitsGap ∧ x.format.span x.format.endGap ≤ x.markSpan then some (.endGap p) else none

/-- The guard is reached (R128). -/
def PortState.dueRelease (x : PortState) (p : Port) : Option Instr :=
  if x.quiet ∧ x.monitor = .busy ∧ x.format.span x.format.guardGap ≤ x.markSpan then some (.lineRelease p) else none

/-- The backoff gap is reached (R105, R109). -/
def PortState.dueBackoff (x : PortState) (p : Port) : Option Instr :=
  if x.quiet ∧ x.scheduler.phase = .backoff ∧ x.format.span x.scheduler.backoffGap ≤ x.markSpan then some (.backoffEnd p)
  else none

/-- Space has lasted longer than a character (R127), or its count has met its limit at a boundary (R131, R132). -/
def State.dueSpace (s : State) (p : Port) : Option Instr :=
  let x := s.port p
  if x.rxPin = .space ∧ x.monitor = .busy ∧ x.format.charTime < x.spaceSpan then some (.spaceHeld p)
  else if x.rxPin = .space ∧ x.limitReached then
    match p with
    | .trunk => if s.trunk.breakState = .armed then some .trunkBreak else none
    | .b1 | .b2 | .b3 | .b4 => if x.admin = .active then some (.stuckFault p) else none
  else none

/-- A completion raised and not yet taken (R27). -/
def PortState.dueCompletion (x : PortState) (p : Port) : Option Instr :=
  if x.completions.isEmpty then none else some (.telegramCompletion p)

/-- A record whose time remaining has reached 0 (R51). -/
def ExchangeRecord.due (r : ExchangeRecord) : Option Instr :=
  if r.remaining = 0 then
    match r.state with
    | .awaiting => some (.deadlineExpiry r.target r.line)
    | .lapsed => if r.lateHold then none else some (.lingerExpiry r.target r.line)
    | .sending | .answering => none
  else none

/-- A request handed to the Management Agent and not yet taken (R32). -/
def State.dueRequest (s : State) : Option Instr :=
  match s.agent.requests with
  | _ :: _ => some .mgmtRequest
  | [] => none

/-- The trunk's part of a management request: a request handed over, the trunk's completion, the trunk's end gap. They
stand before every other port's end gap and completion, so that a request that a marker bit has ended is answered before
the telegrams that end in the same tick (DESIGN CHOICE, entry 4). -/
def State.dueTrunk (s : State) : Option Instr :=
  (s.dueRequest.or ((s.port .trunk).dueCompletion .trunk)).or ((s.port .trunk).dueEndGap .trunk)

/-- The Route Table Unit's own events that wait to be taken: a count report, a step of validation or reseed. -/
def State.dueBlocks (s : State) : Option Instr :=
  match s.routes.countReports, s.routes.shadow with
  | c :: _, _ => some (.countReport c.bank c.port c.address)
  | [], .validating => some .validationStep
  | [], .reseeding => some .reseedCopy
  | [], .clean | [], .edited | [], .stale => none

/-- The first event that is due, in the model's order (DESIGN CHOICE, entry 4). Of several expiries at one millisecond
boundary, which R51 lets be taken in either order, that of the record first in the table's list is due first, which is the
order of opening (DESIGN CHOICE, entries 4 and 20). -/
def State.due (s : State) : Option Instr :=
  ((((((((Port.all.findSome? fun p => (s.port p).dueCharacter p).or
    (Port.all.findSome? s.dueTransmit)).or
    s.dueTrunk).or
    (Port.all.findSome? fun p => (s.port p).dueEndGap p)).or
    (Port.all.findSome? fun p => (s.port p).dueCompletion p)).or
    s.dueBlocks).or
    (s.exchanges.records.findSome? ExchangeRecord.due)).or
    (Port.all.findSome? s.dueSpace)).or
    ((Port.all.findSome? fun p => (s.port p).dueRelease p).or
    (Port.all.findSome? fun p => (s.port p).dueBackoff p))

/-- A step with no command waiting: the event due, or else one tick (DESIGN CHOICE, entry 3). -/
def State.idle (s : State) : Host.Outcome State Fault Refusal :=
  match s.due with
  | some c => exec c s
  | none => .next s.tick

end Sys2Proof.Machine
end

