-- ==== Sys2Proof/Safety.lean ====
section
/-! DEFINITION. The terms claims use: what a command leaves as it was, what an answered request leaves, and the
invariants every step keeps. -/

namespace Sys2Proof

/-- The request a management command stands for: its pair of numbers and its parameters (R173, Table 10-6). -/
def Instr.requestOf : Instr → Option (Machine.RequestId × List Chr)
  | .status seq => some (⟨seq, 0x01⟩, [])
  | .forwarding seq value => some (⟨seq, 0x02⟩, [value])
  | .portRead seq port => some (⟨seq, 0x03⟩, [port])
  | .portFormat seq params => some (⟨seq, 0x04⟩, params)
  | .enable seq port => some (⟨seq, 0x05⟩, [port, 0x00])
  | .disable seq port => some (⟨seq, 0x05⟩, [port, 0x01])
  | .recover seq port => some (⟨seq, 0x05⟩, [port, 0x02])
  | .purge seq port => some (⟨seq, 0x05⟩, [port, 0x03])
  | .countersClear seq port => some (⟨seq, 0x06⟩, [port])
  | .routeWrite seq port address dests flags egress window count reload =>
    some (⟨seq, 0x07⟩, Machine.routeRecord port address dests flags egress window count reload)
  | .routeDelete seq port address => some (⟨seq, 0x08⟩, [port, address])
  | .routeRead seq bank port address => some (⟨seq, 0x09⟩, [bank, port, address])
  | .routeList seq bank port address => some (⟨seq, 0x0A⟩, [bank, port, address])
  | .tableCommit seq => some (⟨seq, 0x0B⟩, [])
  | .tableDiscard seq => some (⟨seq, 0x0C⟩, [])
  | .routeRearm seq port address => some (⟨seq, 0x0D⟩, [port, address])
  | .exchangeList seq => some (⟨seq, 0x0E⟩, [])
  | .noticeRead seq maximum => some (⟨seq, 0x0F⟩, [maximum])
  | .settingsWrite seq record => some (⟨seq, 0x10⟩, record)
  | .settingsRead seq => some (⟨seq, 0x11⟩, [])
  | .restart seq value => some (⟨seq, 0x12⟩, [value])
  | .coldReset _ _ | .characterReport _ _ _ _ _ | .echoMissing _ | .endGap _ | .telegramCompletion _
  | .countReport _ _ _ | .lineRelease _ | .backoffEnd _ | .attemptCompletion _ | .deadlineExpiry _ _
  | .lingerExpiry _ _ | .spaceHeld _ | .stuckFault _ | .trunkBreak | .validationStep | .reseedCopy
  | .noticePost _ _ _ _ | .mgmtRequest | .markToSpaceEdge _ | .returnOfMark _ | .falseStart _
  | .driverEnableRelease _ => none

namespace Machine

/-! ### What stays as it was -/

/-- Every port but `p` is as it was. -/
def OtherPortsKept (p : Port) (s t : State) : Prop := ∀ q, q ≠ p → t.port q = s.port q

/-- Every stored character outside the addresses from `a` on, `n` of them, reads as it did. -/
def StoredKept (a n : Nat) (s t : State) : Prop :=
  ∀ b, b < a ∨ a + n ≤ b → readCell t.pool.cells b = readCell s.pool.cells b

/-- Everything but the ports, the pool and the exchange table is as it was. -/
def BlocksKept (s t : State) : Prop :=
  t.trunk = s.trunk ∧ t.routes = s.routes ∧ t.notices = s.notices ∧ t.agent = s.agent ∧ t.straps = s.straps
    ∧ t.pending = s.pending

/-- Everything but port `p`, the pool, the exchange table and the notices is as it was; on the trunk a mark seen on the
line has armed the break (R132). -/
def MarkKept (p : Port) (s t : State) : Prop :=
  OtherPortsKept p s t
    ∧ t.trunk = { s.trunk with breakState := if p = .trunk then .armed else s.trunk.breakState }
    ∧ t.routes = s.routes ∧ t.agent = s.agent ∧ t.straps = s.straps ∧ t.pending = s.pending

/-- The value a character is taken with: 00h for a break (R143). -/
def takenValue (v : Chr) (err : Option CharError) : Chr := if err = some .brk then 0 else v

/-- The character opens a telegram in framing `f`: every one in IDLE_LINE framing, in ADDRESS_BIT framing one that carries
the marker bit, which a break does not (R118, R119). -/
def OpensTelegram (f : Framing) (m : Bool) (err : Option CharError) : Prop :=
  f = .idleLine ∨ m = true ∧ err ≠ some .brk

/-- Everything but port `p`, the pool, the exchange table and the notices is as it was; on the trunk a mark stop bit has
armed the break, a space one has not (R132, R142). -/
def LineSeen (p : Port) (err : Option CharError) (s t : State) : Prop :=
  OtherPortsKept p s t
    ∧ t.trunk = { s.trunk with
        breakState := if p = .trunk ∧ err ≠ some .framing ∧ err ≠ some .brk then .armed else s.trunk.breakState }
    ∧ t.routes = s.routes ∧ t.agent = s.agent ∧ t.straps = s.straps ∧ t.pending = s.pending

/-- A character with marker bit `m` and error `err` opens a telegram on port `p`: on a receiver in IDLE it raises no
completion, and one with the marker bit ends in ADDRESS_BIT framing the telegram that is open, whose completion is `ks`
(R118, R119, R121, R122, R124, Table 2-1; the clear wide flag of a completion without a descriptor is entry 34). -/
def StartsTelegram (p : Port) (s : State) (m : Bool) (err : Option CharError) (ks : List Completion) : Prop :=
  OpensTelegram (s.port p).charFormat.framing m err ∧
    ((s.port p).receiver = .idle ∧ ks = []
      ∨ (s.port p).charFormat.framing = .addressBit
        ∧ ((∃ o b, (s.port p).receiver = .inTelegram o b
              ∧ ks = [⟨(s.pool.descriptor o).address, some o, (s.pool.descriptor o).length, (s.pool.descriptor o).wide,
                  (s.pool.descriptor o).damage⟩])
          ∨ ∃ a n, (s.port p).receiver = .discarding a n ∧ ks = [⟨a, none, n, false, none⟩]))

/-- The exchange table once address character `w` has been taken on port `p`: an AWAITING record of the pair is ANSWERING,
a LAPSED one has its late hold, and any other stays (R58, Table 3-4). -/
def addressTold (p : Port) (w : Chr) (m : ExchangeMonitor) : ExchangeMonitor :=
  { m with records := m.records.map fun x =>
      if x.target = p ∧ x.line = w then
        (if x.state = .awaiting then { x with state := .answering }
         else if x.state = .lapsed then { x with lateHold := true } else x)
      else x }

/-- LATE where the pair's record is LAPSED without late hold (R58, R59). -/
def lateMark (p : Port) (w : Chr) (m : ExchangeMonitor) : Option Damage :=
  if ∃ x ∈ m.records, x.target = p ∧ x.line = w ∧ x.state = .lapsed ∧ x.lateHold = false then some .late else none

/-- Where the character receiver goes after a report (R142). -/
def afterStop (err : Option CharError) : CharReceiver :=
  if err = some .framing ∨ err = some .brk then .awaitMark else .awaitStart

/-- A port is as it was but for what the start of an attempt touches: receiver, completions, transmitter, scheduler. -/
def LineKept (x y : PortState) : Prop :=
  y = { x with receiver := y.receiver, completions := y.completions, transmitter := y.transmitter, scheduler := y.scheduler }

/-- A character changes the line's and the receiver's own state and the receive counters of port `p`, and no storage,
record, notice, queue or completion. -/
def CharacterKept (p : Port) (s t : State) : Prop :=
  OtherPortsKept p s t ∧ t.pool = s.pool ∧ t.exchanges = s.exchanges ∧ t.notices = s.notices ∧ t.routes = s.routes
    ∧ t.agent = s.agent ∧ t.straps = s.straps ∧ t.pending = s.pending ∧ t.scheduler p = s.scheduler p
    ∧ (t.port p).completions = (s.port p).completions

/-- The notice queue with the post that Table 2-3 gives a damaged completion of port `p`; none without a descriptor. -/
def Completion.damagePost (c : Completion) (p : Port) (q : NoticeQueue) : NoticeQueue :=
  match c.desc, c.damage with
  | some _, some .parity => q.post .lineError (some p) (some c.address) (some 1)
  | some _, some .framing => q.post .lineError (some p) (some c.address) (some 2)
  | some _, some .brk => q.post .lineError (some p) (some c.address) (some 3)
  | some _, some .overlength => q.post .overlength (some p) (some c.address) none
  | some _, some .shortfall => q.post .poolExhausted (some p) (some c.address) none
  | some _, some .late | some _, none | none, _ => q

/-! ### Collisions -/

/-- Command `c` is a collision of the head `e` on the line of port `p`, `pos` of its characters compared good:
ECHO_MISSING, or the report, well-formed in the format of the attempt, of a character in error or one that differs from
the one sent in value, marker bit or parity bit (R102, R104). On a report's line that reads space the line monitor has seen
the space, as `SpaceIsSeen` says. -/
def Collision (p : Port) (s : State) (e : QueueEntry) (pos : Nat) (c : Instr) : Prop :=
  c = .echoMissing p
    ∨ ∃ v m pb err f i bit tick ls cut,
        c = .characterReport p v m pb err
          ∧ (s.port p).transmitter = .sending f i ls bit tick cut ∧ (s.port p).charFormat = f
          ∧ (f.width = .eight ∨ v.toNat ≤ 0x7F) ∧ (f.framing = .addressBit ∨ m = false)
          ∧ (f.parity ≠ .noParity ∨ pb = false)
          ∧ (err = some .parity → f.parity ≠ .noParity ∧ pb ≠ f.parityBit v m)
          ∧ ((s.port p).rxPin = .space → (s.port p).monitor ≠ .released)
          ∧ ¬(err = none ∧ v = f.fit (s.pool.sentChar e pos) ∧ m = decide (f.framing = .addressBit ∧ pos = 0)
              ∧ (f.parity = .noParity ∨ pb = f.parityBit v m))

/-- A port as it was but for the line and the character receiver, which are those of `l`. -/
def PortState.withLine (x l : PortState) : PortState :=
  { x with
    rxPin := l.rxPin, markSpan := l.markSpan, charTail := l.charTail, spaceSpan := l.spaceSpan,
    spaceCount := l.spaceCount, limitReached := l.limitReached, monitor := l.monitor, charReceiver := l.charReceiver }

/-- What the collision `c` does to the line of port `p`: the mark span starts again and the line is not RELEASED.
ECHO_MISSING leaves the level, the spans at space and the character receiver; a report gives the level of its stop bit and
ends the character, and on the trunk a mark stop bit arms the break (R115, R132, R142). -/
def CollisionLine (p : Port) (c : Instr) (s t : State) : Prop :=
  (t.port p).markSpan = 0 ∧ (t.port p).monitor ≠ .released
    ∧ (c = .echoMissing p →
        t.trunk.breakState = s.trunk.breakState ∧ (t.port p).charTail = 0 ∧ (t.port p).rxPin = (s.port p).rxPin
          ∧ (t.port p).spaceSpan = (s.port p).spaceSpan ∧ (t.port p).spaceCount = (s.port p).spaceCount
          ∧ (t.port p).charReceiver = (s.port p).charReceiver)
    ∧ ∀ v m pb err, c = .characterReport p v m pb err →
        t.trunk.breakState =
            (if p = .trunk ∧ err ≠ some .framing ∧ err ≠ some .brk then .armed else s.trunk.breakState)
          ∧ (t.port p).rxPin = (if err = some .framing ∨ err = some .brk then .space else .mark)
          ∧ (t.port p).charReceiver = afterStop err

/-! ### Heads -/

/-- The entry `e`, without an exchange request, has joined the empty queue of the ACTIVE port `p`, is its head and has been
decided: held while the open records that target the port number its overlap depth or more, counted as the step leaves
them, since a held head is decided again when one closes; else started where the line is free; else RESERVED for the next
release (R95, R97, R98, R99). A telegram open on the port is closed before the start, its completion raised last (R100).
The model's choices: a RELEASED line is not free while the driver finishes a cut character, and the start leaves the line
monitor as it stands (entry 16); the backoff gap stays (entry 33); the wide flag is clear without a descriptor (entry
34). -/
def HeadDecided (p : Port) (s t : State) (e : QueueEntry) : Prop :=
  if (s.port p).format.overlap ≤ t.exchanges.openCount p then
    t.port p = { s.port p with scheduler := { s.scheduler p with queue := [e], phase := .headHeld } }
  else if (s.port p).monitor = .released ∧ (s.port p).driverEnable = false then
    t.port p = { s.port p with
        receiver := .echo 0, completions := (t.port p).completions,
        transmitter := .sending (s.port p).format 0 ((s.port p).format.levels e.line true) 0 0 false,
        scheduler := { s.scheduler p with queue := [e], phase := .onLine } }
      ∧ (∀ o b, (s.port p).receiver = .inTelegram o b →
          ∃ k, (t.port p).completions = (s.port p).completions ++ [k] ∧ k.desc = some o)
      ∧ (∀ a n, (s.port p).receiver = .discarding a n →
          (t.port p).completions = (s.port p).completions ++ [⟨a, none, n, false, none⟩])
      ∧ ((∀ o b, (s.port p).receiver ≠ .inTelegram o b) → (∀ a n, (s.port p).receiver ≠ .discarding a n) →
          (t.port p).completions = (s.port p).completions)
  else t.port p = { s.port p with scheduler := { s.scheduler p with queue := [e], phase := .reserved } }

/-! ### Restarts and port losses -/

/-- What a warm restart leaves, whatever was raised before it (R25, R35, R74, R92, R113, R116, R152, R153, R190). -/
structure RestartedWarm (s t : State) : Prop where
  agent : t.agent = { s.agent with
    replay := none, executing := none, restartPending := none, requests := [], forwarding := false, restartSeen := true }
  formats : t.trunk.pendingFormat = none ∧ t.trunk.pendingDepth = none
  routes : t.routes.first = s.routes.first ∧ t.routes.second = s.routes.second ∧ t.routes.active = s.routes.active
    ∧ t.routes.shadow = s.routes.shadow.afterWarm
  exchanges : t.exchanges.records = [] ∧ t.exchanges.nextSeq = 0 ∧ t.exchanges.tickCount = s.exchanges.tickCount
  pool : t.pool.freeDescriptorCount = 47 ∧ t.pool.free.length = 120 ∧ ∀ d, (t.pool.descriptor d).refs = 0
  ports : ∀ p, t.scheduler p = ⟨[], .empty, 0, 0, 0⟩ ∧ (t.port p).completions = []
    ∧ (t.port p).admin = (s.port p).admin ∧ (t.port p).lastFault = (s.port p).lastFault
    ∧ (t.port p).receiver = (if (s.port p).admin = .active then .settling else .off)
    ∧ (p ≠ .trunk → (t.port p).format = (s.port p).format)
  straps : t.straps = s.straps
  pending : t.pending = s.pending

/-- The counters of a port whose receiver has given up what it had open: an open telegram, stored or discarding, counts
once in rx_discarded (R126, R161). -/
def AbandonCounted (x y : PortState) : Prop :=
  y.counters = { x.counters with
    rxDiscarded := match x.receiver with
      | .inTelegram _ _ | .discarding _ _ => min 65535 (x.counters.rxDiscarded + 1)
      | .off | .settling | .idle | .echo _ => x.counters.rxDiscarded }

/-- A port at a warm restart before which no completion is raised: its transmission is cut, its open telegram counted, and
its line goes on as it is (R113, R115, R126, R144, R147, R161). -/
def PortCut (x y : PortState) : Prop :=
  y.transmitter = x.transmitter.cutShort ∧ (x.counters.rxDiscarded ≤ 65535 → AbandonCounted x y)
    ∧ y.charReceiver = x.charReceiver ∧ y.monitor = x.monitor ∧ y.markSpan = x.markSpan ∧ y.rxPin = x.rxPin

/-- What a warm restart leaves besides where no completion is raised before it: the stored characters, the count reports,
the trunk's format with a pending depth in it, and the branches (R92, R126, R130, R152, R153). -/
structure RestartedPlain (s t : State) : Prop where
  cells : t.pool.cells = s.pool.cells
  reports : t.routes.countReports = s.routes.countReports
  format : (t.port .trunk).format = { (s.port .trunk).format with
    overlap := match s.trunk.pendingDepth with | some d => d | none => (s.port .trunk).format.overlap }
  branches : ∀ p, p ≠ .trunk →
    PortCut (s.port p) (t.port p) ∧ (t.port p).spaceCount = (s.port p).spaceCount

/-- The trunk format `f` that waited has taken effect, its overlap depth only where the open records that target T are no
more than it; else the old depth stays in force and the new one waits (R152, R153). -/
def FormatInstalled (f : FormatRecord) (s t : State) : Prop :=
  t.trunk.pendingFormat = none
    ∧ (s.exchanges.openCount .trunk ≤ f.overlap → (t.port .trunk).format = f ∧ t.trunk.pendingDepth = none)
    ∧ (f.overlap < s.exchanges.openCount .trunk →
        (t.port .trunk).format = { f with overlap := (s.port .trunk).format.overlap }
          ∧ t.trunk.pendingDepth = some f.overlap)

/-- The notices with PURGED for the `n` entries that left the queue of port `p`, where there was one (R112). -/
def NoticeQueue.purgedOf (q : NoticeQueue) (p : Port) (n : Nat) : NoticeQueue :=
  if n = 0 then q else q.post .purged (some p) none (some (BitVec.ofNat 16 n))

/-- What the loss of port `p` leaves of the exchange table and posts behind the notices `q`: every open record of the port
is gone with EXCHANGE_CLOSED and detail UNREACHABLE, the youngest first, with STANDIN_LOST next where its stand-in reply is
lost, for the reason `why`; its records with late hold are gone without notice, and every other record stays (R63, R65,
R70). -/
def RecordsLost (p : Port) (s t : State) (q : NoticeQueue) (why : ExchangeRecord → Option Word16) : Prop :=
  ∃ lost : List ExchangeRecord,
    lost.Perm (s.exchanges.records.filter fun r => decide (r.target = p) && r.isOpen)
      ∧ lost.Pairwise (fun x y => s.exchanges.age x ≤ s.exchanges.age y)
      ∧ t.notices = lost.foldl (fun n r =>
          let closed := n.post .exchangeClosed (some p) (some r.line) (some 3)
          match why r with
          | some code => closed.post .standinLost (some r.origin) (some r.originAddress) (some code)
          | none => closed) q
      ∧ t.exchanges = { s.exchanges with
          records := s.exchanges.records.filter fun r => !(decide (r.target = p) && (r.isOpen || r.lateHold)) }

/-- The pool once every entry of port `p`'s queue has given up its reference, in queue order (R86, R112). -/
def State.purgedPool (s : State) (p : Port) : Pool := (s.scheduler p).queue.foldl (fun q e => q.dropRef e.desc) s.pool

/-- The pool once port `p`'s queue is empty and its receiver has given up the telegram it had open (R112, R126). -/
def State.lostPool (s : State) (p : Port) : Pool :=
  match (s.port p).receiver with
  | .inTelegram d _ => (s.purgedPool p).giveUp d
  | .off | .settling | .idle | .discarding _ _ | .echo _ => s.purgedPool p

/-- The storage of the telegram that port `p` had open is free: a general descriptor, RECEIVING with the receiver's
reference alone, is FREE without cells, and each of its cells stands on the free list (R84, R126). -/
def AbandonedFreed (p : Port) (s t : State) : Prop :=
  ∀ d b, (s.port p).receiver = .inTelegram d b → d ≠ 0 → (s.pool.descriptor d).state = .receiving →
    (s.pool.descriptor d).refs = 1 → (∀ e ∈ (s.scheduler p).queue, e.desc ≠ d) →
    (t.pool.descriptor d).state = .free ∧ (t.pool.descriptor d).refs = 0 ∧ (t.pool.descriptor d).cells = []
      ∧ ∀ c ∈ (s.pool.descriptor d).cells, c ∈ t.pool.free

/-! ### Stand-in replies -/

/-- A stand-in reply of record `r` finds descriptor `d` and cell `c` the first free, and its origin port takes the offer
(R70). -/
structure StandInTaken (s : State) (r : ExchangeRecord) (o : CloseOutcome) (d : DescNo) (c : CellNo) : Prop where
  descriptor : s.pool.freeDescriptor? = some d
  cell : s.pool.free.head? = some c
  offered : s.filter r.origin r.originAddress
    (((s.agent.settings.standInReply r.originAddress o).drop 1).any fun x => decide (0x7F < x.toNat)) = none

/-- The stand-in reply of record `r` is stored in descriptor `d` and cell `c`, HELD with one reference, and stands last in
the queue of its origin port under the origin address: behind an entry that waits already nothing else of the port changes,
and into an empty queue it becomes the head and is decided (R69, R70, R95). -/
structure StandInQueued (s t : State) (r : ExchangeRecord) (o : CloseOutcome) (d : DescNo) (c : CellNo) : Prop where
  telegram : t.pool.telegram d = s.agent.settings.standInReply r.originAddress o
  held : (t.pool.descriptor d).state = .held ∧ (t.pool.descriptor d).refs = 1 ∧ (t.pool.descriptor d).cells = [c]
    ∧ (t.pool.descriptor d).arrival = r.target
  queue : (t.scheduler r.origin).queue = (s.scheduler r.origin).queue ++ [⟨d, r.originAddress, none⟩]
  behind : (s.scheduler r.origin).queue ≠ [] →
    t.port r.origin = { s.port r.origin with scheduler := { s.scheduler r.origin with
      queue := (s.scheduler r.origin).queue ++ [⟨d, r.originAddress, none⟩] } }
  decided : (s.scheduler r.origin).queue = [] → HeadDecided r.origin s t ⟨d, r.originAddress, none⟩

/-- The open record `r` of port `p` is the one there whose stand-in is ON, and once the port's queue is empty its stand-in
reply finds descriptor `d` and cell `c` and is taken at another port (R63, R70). -/
structure LossStandIn (p : Port) (s : State) (r : ExchangeRecord) (d : DescNo) (c : CellNo) : Prop where
  record : r ∈ s.exchanges.records ∧ r.target = p ∧ r.isOpen = true ∧ r.standIn = true
  only : ∀ x ∈ s.exchanges.records, x.target = p → x.isOpen = true → x.standIn = true → x = r
  origin : r.origin ≠ p
  taken : StandInTaken { s with pool := s.purgedPool p } r .unreachable d c
  other : ∀ b, (s.port p).receiver ≠ .inTelegram d b

/-- Port `p` is lost and the stand-in reply of its record `r` queued toward the origin, the notices of the closes behind
`q` and none of them STANDIN_LOST (R63, R70, R126). -/
structure LossAnswered (p : Port) (s t : State) (r : ExchangeRecord) (d : DescNo) (c : CellNo) (q : NoticeQueue) : Prop where
  queued : StandInQueued s t r .unreachable d c
  descriptors : ∀ k, k ≠ d → t.pool.descriptor k = (s.lostPool p).descriptor k
  stored : StoredKept (c.val * 32) 10 s t
  records : RecordsLost p s t q fun _ => none
  ports : ∀ k, k ≠ p → k ≠ r.origin → t.port k = s.port k

/-! ### Requests and replies -/

/-- A request of this pair is neither an overrun nor a repetition (R177, R178). -/
def Ready (s : State) (id : RequestId) : Prop := s.agentBusy = false ∧ s.agent.replay ≠ some id

/-- The entry of the management reply (R89). -/
def State.replyEntry (s : State) : QueueEntry := { desc := 0, line := s.mgmtAddress, request := none }

/-- `t` is `u` with the reply `a` to the request `id` built, kept and queued, and nothing else changed but what the
start of the reply's attempt touches (R88, R89, R175). -/
structure Replied (u t : State) (id : RequestId) (a : Answer) : Prop where
  telegram : t.pool.telegram 0 = u.replyChars id a
  held : (t.pool.descriptor 0).state = .mgmtReply ∧ (t.pool.descriptor 0).refs = 1
    ∧ (t.pool.descriptor 0).cells = replyCells ∧ (t.pool.descriptor 0).damage = none
  stored : StoredKept 0 (u.replyChars id a).length u t
  free : t.pool.free = u.pool.free
  descriptors : ∀ d : DescNo, d ≠ 0 → t.pool.descriptor d = u.pool.descriptor d
  agent : t.agent = { u.agent with replay := some id, executing := none }
  queue : (t.scheduler .trunk).queue = (u.scheduler .trunk).queue ++ [u.replyEntry]
  line : LineKept (u.port .trunk) (t.port .trunk)
  branches : OtherPortsKept .trunk u t
  trunk : t.trunk = u.trunk
  routes : t.routes = u.routes
  exchanges : t.exchanges = u.exchanges
  notices : t.notices = u.notices
  straps : t.straps = u.straps
  pending : t.pending = u.pending

/-! ### Invariants -/

/-- The stored characters stand in their canonical form. -/
def CellsCanonical (s : State) : Prop := cellsWf s.pool.cells = true

/-- The Notice Queue holds at most 32 records (R164). -/
def NoticesBounded (s : State) : Prop := s.notices.records.length ≤ Config.noticeCount

/-- The trunk is ACTIVE and 8-bit and does not pass misses to itself, and no format waits that would change this
(R39, R148, R154). -/
def TrunkInService (s : State) : Prop :=
  (s.port .trunk).admin = .active ∧ (s.port .trunk).format.trunkOk = true
    ∧ ∀ f, s.trunk.pendingFormat = some f → f.trunkOk = true

/-- The counters of every port stay within 16 bits (R161). -/
def CountersBounded (s : State) : Prop :=
  ∀ p, (s.port p).counters.rxTelegrams ≤ Config.counterMax ∧ (s.port p).counters.rxDiscarded ≤ Config.counterMax
    ∧ (s.port p).counters.txTelegrams ≤ Config.counterMax ∧ (s.port p).counters.collisions ≤ Config.counterMax

/-- A line that reads space is not RELEASED: the line monitor has seen the space (R127). -/
def SpaceIsSeen (s : State) : Prop := ∀ p, (s.port p).rxPin = .space → (s.port p).monitor ≠ .released

/-- Format and settings records, in force or waiting, lie in the ranges of Tables 8-1 and 10-15. -/
def RecordsInRange (s : State) : Prop :=
  (∀ p, (s.port p).format.inRanges = true) ∧ (∀ f, s.trunk.pendingFormat = some f → f.inRanges = true)
    ∧ (∀ d, s.trunk.pendingDepth = some d → 1 ≤ d ∧ d ≤ 4) ∧ s.agent.settings.inRanges = true

/-- At most 16 exchange records, at most one on a pair (R49). -/
def ExchangesSound (s : State) : Prop :=
  s.exchanges.records.length ≤ Config.exchangeCount
    ∧ s.exchanges.records.Pairwise fun a b => ¬(a.target = b.target ∧ a.line = b.line)

/-- The open records that target a port number no more than its overlap depth, on the trunk the old one while a pending
depth waits, and a pending depth waits only below their number (R49, R52, R153). -/
def OverlapBounded (s : State) : Prop :=
  (∀ p, s.exchanges.openCount p ≤ (s.port p).format.overlap)
    ∧ ∀ d, s.trunk.pendingDepth = some d → d < s.exchanges.openCount .trunk

/-- The trunk is ACTIVE. A port that is not has an empty queue, its scheduler EMPTY and its receiver OFF, and is the
target of no open record (R63, R112, R116, R154). -/
def DownPortsSilent (s : State) : Prop :=
  (s.port .trunk).admin = .active
    ∧ ∀ p, (s.port p).admin ≠ .active →
      (s.scheduler p).queue = [] ∧ (s.scheduler p).phase = .empty ∧ (s.port p).receiver = .off
        ∧ ∀ r ∈ s.exchanges.records, r.target = p → r.isOpen = false

/-- An entry as R1 and R20 allow it: legal for the management address, its allowance LIVE with a count of 1 to 65535
or RETIRED with 0, and RETIRED only with an allowance. -/
def RouteEntry.sound (mgmt : Chr) (e : RouteEntry) : Prop :=
  e.legal mgmt = true
    ∧ match e.allowance with
      | none => e.retired = false
      | some al =>
        1 ≤ al.reload ∧ al.reload ≤ 65535
          ∧ if e.retired then al.count = 0 else 1 ≤ al.count ∧ al.count ≤ 65535

/-- A bank in key order, one entry for a key, at most 128, each sound (R1). -/
def BankSound (mgmt : Chr) (es : List RouteEntry) : Prop :=
  es.length ≤ Config.bankSize ∧ (es.map RouteEntry.rank).Pairwise (· < ·) ∧ ∀ e ∈ es, e.sound mgmt

/-- Both banks are sound, and a bank under reseed holds the keys copied so far (R1, R15, R20). -/
def BanksSound (s : State) : Prop :=
  BankSound s.mgmtAddress s.routes.first ∧ BankSound s.mgmtAddress s.routes.second
    ∧ (s.routes.shadow = .reseeding →
        s.routes.shadowBank.map RouteEntry.rank = (s.routes.activeBank.map RouteEntry.rank).take s.routes.reseedPos)

/-- The entries of a queue that name descriptor 0. -/
def replyEntries (q : List QueueEntry) : List QueueEntry := q.filter fun e => decide (e.desc = 0)

/-- Queues within their sizes; descriptor 0 named by at most one entry, on the trunk alone, counted by its reference
count, none while a command executes, and by no reception, completion or request (R42, R78, R89, R94, R177). -/
def QueuesSound (s : State) : Prop :=
  (∀ p, p.isBranch = true → (s.scheduler p).queue.length ≤ Config.queueSize ∧ replyEntries (s.scheduler p).queue = [])
    ∧ ((s.scheduler .trunk).queue.filter fun e => decide (e.desc ≠ 0)).length ≤ Config.trunkOrdinary
    ∧ (s.pool.descriptor 0).refs = (replyEntries (s.scheduler .trunk).queue).length
    ∧ (s.pool.descriptor 0).refs ≤ 1
    ∧ (s.agent.executing.isSome = true → (s.pool.descriptor 0).refs = 0)
    ∧ (∀ p, ∀ c ∈ (s.port p).completions, c.desc ≠ some 0)
    ∧ (∀ p b, (s.port p).receiver ≠ .inTelegram 0 b)
    ∧ (0 : DescNo) ∉ s.agent.requests

/-- The general descriptors, 1 to 47 (R78). -/
def generalDescriptors : List DescNo := (List.finRange Config.descriptorCount).drop 1

/-- The receivers, completions and requests that hold the RECEIVING reference of a descriptor (R29, R32, R78). -/
def State.holders (s : State) (d : DescNo) : Nat :=
  (Port.all.map fun p =>
      (match (s.port p).receiver with
        | .inTelegram k _ => (decide (k = d)).toNat
        | .off | .settling | .idle | .discarding _ _ | .echo _ => 0)
      + ((s.port p).completions.filter fun c => decide (c.desc = some d)).length).sum
    + (s.agent.requests.filter fun k => decide (k = d)).length

/-- The queue entries that name a descriptor (R78). -/
def State.naming (s : State) (d : DescNo) : Nat :=
  (Port.all.map fun p => ((s.scheduler p).queue.filter fun e => decide (e.desc = d)).length).sum

/-- The pool in order: the free list in rising order, so that its head is its lowest cell; every general cell on the free
list or in the cell list of one general descriptor, once; descriptor 0 with its cells 0 to 7; the count of a general
descriptor the number of queue entries that name it plus one while it is RECEIVING, when it has one holder, and a FREE one
without cells (R76, R77, R78, R85, R86). -/
def PoolSound (s : State) : Prop :=
  s.pool.free.Pairwise (· < ·)
    ∧ (s.pool.free ++ generalDescriptors.flatMap fun d => (s.pool.descriptor d).cells).Perm generalCells
    ∧ (s.pool.descriptor 0).cells = replyCells
    ∧ ∀ d : DescNo, d ≠ 0 →
        (s.pool.descriptor d).refs = s.naming d + s.holders d
          ∧ match (s.pool.descriptor d).state with
            | .free => (s.pool.descriptor d).refs = 0 ∧ (s.pool.descriptor d).cells = []
            | .receiving => s.holders d = 1
            | .held => s.holders d = 0 ∧ 1 ≤ s.naming d
            | .mgmtReply => False

end Machine
end Sys2Proof
end

