-- ==== Sys2Proof/Certificates/Slice0/Obligations.lean ====
section
/-! DEFINITION. The statements put to the provers. "The port's record" of a docstring is the spec's line, character and
scheduler state of that port. A statement that rests on a choice of the model names the log entry. Three choices run
through them all: the fields of a descriptor that becomes FREE, where a statement gives the pool after `giveUp` or `dropRef`
(entry 7), the place of a record in the exchange table's list (entry 20), and that a management command of the table is a
request past its length and CRC checks (entry 9). -/

open Sys2Proof Sys2Proof.Machine

/-! ### The step -/

/-- With command `c` at the front of the queue, a step is `exec c` on the state with the queue's rest. -/
def Obligations.StepRunsFrontCommand : Prop :=
  ∀ (s : State) (c : Instr) (rest : List Instr),
    s.pending = c :: rest → step s = exec c { s with pending := rest }

/-- Every command, in every state, has a next state, and leaves the queue of waiting commands as it is. -/
def Obligations.EveryCommandCompletes : Prop :=
  ∀ (c : Instr) (s : State), ∃ t, exec c s = .next t ∧ t.pending = s.pending

/-! ### Resets -/

/-- What a cold reset leaves in every block, each strap sampled at its pin (R4, R26, R75, R93, R114, R116, R127, R130,
R132, R138, R144, R149, R154, R161, R172, R182, R183, R189), and what it does not touch: stored characters, receive
pins, waiting commands. Requests handed over are gone with the rest. Three points are the model's: receive pins stay as
they stand and the command carries the strap levels (entry 5), and completions raised (entry 8) and count reports sent
(entry 17) are gone too. -/
def Obligations.ColdResetEffect : Prop :=
  ∀ (maddr : BitVec 4) (tbaud : BitVec 2) (s : State), ∃ t, exec (.coldReset maddr tbaud) s = .next t
    ∧ t.mgmtAddress.toNat = 0xF0 + maddr.toNat ∧ t.straps = ⟨maddr, tbaud, maddr, tbaud⟩
    ∧ t.routes = ⟨[], [], .first, .clean, 0, 0, []⟩
    ∧ (t.exchanges.records = [] ∧ t.exchanges.nextSeq = 0 ∧ t.exchanges.tickCount = 0
        ∧ t.agent.settings = ⟨2, 1, .noCheck, [0, 0, 0, 0, 0, 0, 0, 0], 0xE0, 0xE1, 0xE2, 4000, 50⟩)
    ∧ (t.notices.records = [] ∧ t.notices.nextStamp = 0)
    ∧ (t.pool.freeDescriptorCount = 47 ∧ t.pool.free.length = 120 ∧ (∀ c, c ∈ t.pool.free ↔ 8 ≤ c.val)
        ∧ (t.pool.descriptor 0).cells = [0, 1, 2, 3, 4, 5, 6, 7] ∧ ∀ d, (t.pool.descriptor d).refs = 0)
    ∧ (∀ p, (t.port p).format = (if p = .trunk then defaultFormat (preset tbaud) else defaultFormat [417, 417, 416])
        ∧ (t.port p).admin = (if p = .trunk then .active else .disabled)
        ∧ (t.port p).receiver = (if p = .trunk then .settling else .off)
        ∧ (t.port p).lastFault = none ∧ (t.port p).monitor = .busy
        ∧ (t.port p).markSpan = 0 ∧ (t.port p).charTail = 0 ∧ (t.port p).spaceSpan = 0 ∧ (t.port p).spaceCount = 0
        ∧ (t.port p).limitReached = false ∧ (t.port p).charReceiver = .awaitMark ∧ (t.port p).transmitter = .rest
        ∧ (t.port p).driverEnable = false ∧ (t.port p).txPin = .mark ∧ (t.port p).completions = []
        ∧ (t.port p).counters = ⟨0, 0, 0, 0⟩
        ∧ t.scheduler p = ⟨[], .empty, 0, 0, 0⟩ ∧ (t.port p).rxPin = (s.port p).rxPin)
    ∧ (t.agent.replay = none ∧ t.agent.executing = none ∧ t.agent.restartPending = none ∧ t.agent.requests = []
        ∧ t.agent.forwarding = false ∧ t.agent.restartSeen = true)
    ∧ t.trunk = ⟨none, none, .spent⟩
    ∧ t.pool.cells = s.pool.cells ∧ t.pending = s.pending

/-- The state after power-on is what COLD_RESET with the straps at 0 leaves of it (the pin levels are the model's
choice, entry 5), and it meets every invariant below. -/
def Obligations.ResetStateIsColdAndSound : Prop :=
  exec (.coldReset 0 0) State.reset = .next State.reset
    ∧ CellsCanonical State.reset ∧ NoticesBounded State.reset ∧ TrunkInService State.reset ∧ CountersBounded State.reset
    ∧ RecordsInRange State.reset ∧ ExchangesSound State.reset ∧ DownPortsSilent State.reset ∧ BanksSound State.reset
    ∧ QueuesSound State.reset ∧ PoolSound State.reset ∧ SpaceIsSeen State.reset
    ∧ OverlapBounded State.reset

/-- TRUNK_BREAK with the break ARMED and the trunk at space performs a warm restart: what is cleared, what is kept, and
RESTARTED with detail BREAK as the last post (R25, R35, R74, R92, R113, R116, R132, R190). With no completion raised,
RESTARTED is the one post, every transmission is cut at the end of its character, an open telegram counts once in
rx_discarded and no other counter moves, a pending overlap depth takes effect on the trunk, a pending format is dropped,
and stored characters, line monitors, mark spans and character receivers go on as they are (R113, R115, R126, R132,
R144, R147, R152, R153, R161). Four points are the model's: the completions already raised are decided first (entry 8),
a receiver in ECHO is SETTLING in this very step (entry 11, beside Table 6-5), count reports that wait are kept (entry
17), and the break is taken at any space count (entry 1). A break that is SPENT has no effect, however long the space
(R132). -/
def Obligations.BreakRestartsOnceWhileArmed : Prop :=
  (∀ s : State, s.trunk.breakState = .armed → (s.port .trunk).rxPin = .space →
      ∃ t, exec .trunkBreak s = .next t ∧ RestartedWarm s t ∧ t.trunk = ⟨none, none, .spent⟩
        ∧ (∀ p, (t.port p).counters.txTelegrams = (s.port p).counters.txTelegrams
            ∧ (t.port p).counters.collisions = (s.port p).counters.collisions)
        ∧ (∃ q : NoticeQueue, t.notices = q.post .restarted none none (some 2))
        ∧ (Port.all.all (fun p => (s.port p).completions.isEmpty) = true →
            t.notices = s.notices.post .restarted none none (some 2) ∧ RestartedPlain s t
              ∧ PortCut (s.port .trunk) (t.port .trunk)))
  ∧ (∀ s : State, s.trunk.breakState = .spent → exec .trunkBreak s = .next s)

/-! ### The line -/

/-- MARK_TO_SPACE_EDGE: the port's spans and space count start at 0, RELEASED becomes BUSY, a start edge is taken in
AWAIT_START alone and reads the format in force; nothing else changes. RETURN_OF_MARK: the space count clears,
SPACE_HELD becomes BUSY with the mark span from 0, AWAIT_MARK becomes AWAIT_START, and on the trunk the break is ARMED;
nothing else changes (R115, R127, R130, R132, R140, R142). These points are the model's: an edge on a line that reads
space already starts the counts again just so and leaves SPACE_HELD, and a return of mark on a line that reads mark
already, as after a cold reset, ends AWAIT_MARK and arms the break before a tick of mark has passed (entry 2); and both
events clear the flag of a met limit (entry 24). -/
def Obligations.LineLevelEvents : Prop :=
  (∀ (p : Port) (s : State), ∃ t, exec (.markToSpaceEdge p) s = .next t
      ∧ t = s.setPort p (t.port p)
      ∧ t.port p = { s.port p with
          rxPin := .space, markSpan := 0, charTail := 0, spaceSpan := 0, spaceCount := 0, limitReached := false,
          monitor := (t.port p).monitor, charReceiver := (t.port p).charReceiver }
      ∧ ((t.port p).monitor = .spaceHeld ↔ (s.port p).monitor = .spaceHeld) ∧ (t.port p).monitor ≠ .released
      ∧ (t.port p).charReceiver =
          if (s.port p).charReceiver = .awaitStart then .inCharacter (s.port p).format 0 0 [] else (s.port p).charReceiver)
  ∧ (∀ (p : Port) (s : State), ∃ t, exec (.returnOfMark p) s = .next t
      ∧ t = { s.setPort p (t.port p) with trunk := t.trunk }
      ∧ t.port p = { s.port p with
          rxPin := .mark, spaceSpan := 0, spaceCount := 0, limitReached := false, markSpan := (t.port p).markSpan,
          monitor := (t.port p).monitor, charReceiver := (t.port p).charReceiver }
      ∧ ((s.port p).monitor = .spaceHeld → (t.port p).monitor = .busy ∧ (t.port p).markSpan = 0)
      ∧ ((s.port p).monitor ≠ .spaceHeld →
          (t.port p).monitor = (s.port p).monitor ∧ (t.port p).markSpan = (s.port p).markSpan)
      ∧ (t.port p).charReceiver =
          (if (s.port p).charReceiver = .awaitMark then .awaitStart else (s.port p).charReceiver)
      ∧ (p = .trunk → t.trunk = { s.trunk with breakState := .armed }) ∧ (p ≠ .trunk → t.trunk = s.trunk))

/-- FALSE_START in a candidate start bit: the character receiver goes back to AWAIT_START, the line reads mark, the mark
span stays what it was, and no counter, notice, receiver or pool changes. SPACE_HELD from BUSY with the line at space:
the line monitor enters SPACE_HELD and nothing else of the chip changes but the count of the space (R122, R127, R129,
R140). That the space span is brought above the character time whatever it was, and that a start bit sampled as space
already is dropped too, are the model's choices (entries 1 and 2). The level a false start gives the line is entry 13,
and the flag of a met limit that it clears entry 24. -/
def Obligations.FalseStartAndHeldSpace : Prop :=
  (∀ (p : Port) (s : State) (f : FormatRecord) (tick : Nat) (ls : List Level),
      (s.port p).charReceiver = .inCharacter f 0 tick ls → (s.port p).monitor ≠ .spaceHeld →
      ∃ t, exec (.falseStart p) s = .next t
        ∧ t.port p = { s.port p with
            charReceiver := .awaitStart, rxPin := .mark, spaceSpan := 0, spaceCount := 0, limitReached := false }
        ∧ OtherPortsKept p s t ∧ BlocksKept { s with trunk := t.trunk } t
        ∧ t.trunk.pendingFormat = s.trunk.pendingFormat ∧ t.trunk.pendingDepth = s.trunk.pendingDepth
        ∧ t.trunk.breakState = (if p = .trunk then .armed else s.trunk.breakState)
        ∧ t.pool = s.pool ∧ t.exchanges = s.exchanges)
  ∧ (∀ (p : Port) (s : State), (s.port p).rxPin = .space → (s.port p).monitor = .busy →
      ∃ t, exec (.spaceHeld p) s = .next t
        ∧ t = s.setPort p { s.port p with monitor := .spaceHeld, spaceSpan := (t.port p).spaceSpan }
        ∧ (s.port p).format.charTime < (t.port p).spaceSpan)

/-- STUCK_FAULT on an ACTIVE branch at space: FAULTED with reason STUCK, the queue emptied, the receiver OFF, no open
record left on the port, PORT_FAULTED posted first; banks, agent and other ports' administrative states, counters and
line monitors are kept (R112, R131, R156, R157). The port's open telegram is abandoned: counted once in rx_discarded,
its descriptor FREE and its cells on the free list; with no stand-in reply stored, the pool is what the queue's
references and the abandoned telegram leave (R84, R86, R126). Each open record of the port closes with EXCHANGE_CLOSED
and detail UNREACHABLE, the youngest first, each followed by its STANDIN_LOST where its stand-in reply finds no
descriptor, and these records and those with late hold, and no others, leave the table; where one of them has a stand-in
reply that finds storage and is taken, that reply is queued toward its origin (R63, R65, R69, R70). These points are the
model's: PORT_FAULTED first (entry 4); a receiver in ECHO is OFF in this very step (entry 11, beside Table 6-5); the
fault is taken at any space count (entry 1); a RELEASED line is not free for the stand-in reply's head while its port's
driver finishes a cut character, and the start leaves the line monitor as it stands (entry 16); its backoff gap stays
(entry 33); and a completion without a descriptor, which that start may raise, has its wide flag clear (entry 34). -/
def Obligations.StuckFaultTakesBranchDown : Prop :=
  ∀ (p : Port) (s : State), p.isBranch = true → (s.port p).admin = .active → (s.port p).rxPin = .space →
    ∃ t, exec (.stuckFault p) s = .next t
      ∧ (t.port p).admin = .faulted ∧ (t.port p).lastFault = some .stuck ∧ (t.port p).receiver = .off
      ∧ (t.scheduler p).queue = [] ∧ (t.scheduler p).phase = .empty ∧ (t.scheduler p).attempts = 0
      ∧ (t.scheduler p).abandons = (s.scheduler p).abandons
      ∧ (t.port p).transmitter = (s.port p).transmitter.cutShort
      ∧ (t.port p).monitor = (s.port p).monitor
      ∧ (∀ r ∈ t.exchanges.records, r.target = p → r.isOpen = false ∧ r.lateHold = false)
      ∧ (s.notices.records.length < Config.noticeCount →
          t.notices.records[s.notices.records.length]? =
            some ⟨s.notices.nextStamp, .portFaulted, some p, none, some 1⟩)
      ∧ (∀ q, q ≠ p → (t.port q).admin = (s.port q).admin ∧ (t.port q).lastFault = (s.port q).lastFault
          ∧ (t.port q).monitor = (s.port q).monitor ∧ (t.port q).counters = (s.port q).counters)
      ∧ t.routes = s.routes ∧ t.agent = s.agent ∧ t.straps = s.straps ∧ t.pending = s.pending
      ∧ ((s.port p).counters.rxDiscarded ≤ 65535 → AbandonCounted (s.port p) (t.port p)) ∧ AbandonedFreed p s t
      ∧ ((∀ r ∈ s.exchanges.records, r.target = p → r.isOpen = true → r.standIn = false) →
          ∀ a, readCell t.pool.cells a = readCell s.pool.cells a)
      ∧ (ExchangesSound s → (∀ q, q ≠ p → (s.scheduler q).phase ≠ .headHeld) → s.trunk.pendingDepth = none →
          (∀ r ∈ s.exchanges.records, r.target = p → r.isOpen = true →
            r.standIn = false ∨ s.pool.freeDescriptor? = none ∧ (s.scheduler p).queue = []) →
          RecordsLost p s t
            ((s.notices.post .portFaulted (some p) none (some 1)).purgedOf p (s.scheduler p).queue.length)
            (fun r => if r.standIn then some 4 else none)
            ∧ t.pool = s.lostPool p)
      ∧ (∀ r d c, ExchangesSound s → (∀ q, q ≠ p → (s.scheduler q).phase ≠ .headHeld) → s.trunk.pendingDepth = none →
          CellsCanonical s → s.agent.settings.inRanges = true → LossStandIn p s r d c →
          LossAnswered p s t r d c
            ((s.notices.post .portFaulted (some p) none (some 1)).purgedOf p (s.scheduler p).queue.length))

/-! ### Reception -/

/-- CHARACTER_REPORT of a character that opens a telegram, a descriptor `d` and a cell `c` being the lowest free, in
error or not, on a receiver in IDLE or, with the marker bit in ADDRESS_BIT framing, on one with a telegram open, whose
completion is raised last in the port's FIFO first: the descriptor is RECEIVING with count 1, length 1 and the one cell,
the character stands at the cell's first place and every other stored character is kept, and the receiver is IN_TELEGRAM
(R76, R77, R79, R118, R119, R121, R124). Its error is its damage, a break is taken under address 00h, and in ADDRESS_BIT
framing a break opens none (R79, R118, R119). An AWAITING record on the pair becomes ANSWERING, a LAPSED one takes the
late hold and, where it had none and the character no error of its own, the telegram is marked LATE, and any other
record stays (R58, R59). A line at space is never RELEASED, an invariant of StepKeepsBounds. These points are the
model's: the report is taken wherever the character receiver stands and ends the character there (entry 1), with no
start edge before it too, and sets the level of the line, which on the trunk arms the break (entry 13), RELEASED
becoming BUSY (entry 16); it is read under the format of its start edge (entry 23), an error that contradicts it as
given (entry 19); and a completion without a descriptor has its wide flag clear (entry 34). -/
def Obligations.AddressCharacterOpensTelegram : Prop :=
  ∀ (p : Port) (s : State) (v w : Chr) (m pb : Bool) (err : Option CharError) (d : DescNo) (c : CellNo)
    (rest : List CellNo) (ks : List Completion),
    CellsCanonical s → ExchangesSound s → SpaceIsSeen s → StartsTelegram p s m err ks → w = takenValue v err →
    ((s.port p).charFormat.width = .eight ∨ v.toNat ≤ 0x7F) →
    s.pool.freeDescriptor? = some d → s.pool.free = c :: rest →
    ∃ t, exec (.characterReport p v m pb err) s = .next t
      ∧ (t.port p).completions = (s.port p).completions ++ ks
      ∧ t.pool.descriptor d =
          ⟨.receiving, p, w, 1, [c], false, (err.map CharError.damage).or (lateMark p w s.exchanges), 1⟩
      ∧ (∀ k, k ≠ d → t.pool.descriptor k = s.pool.descriptor k)
      ∧ t.pool.free = rest
      ∧ readCell t.pool.cells (c.val * 32) = w ∧ StoredKept (c.val * 32) 1 s t
      ∧ (t.port p).receiver = .inTelegram d true ∧ (t.port p).charReceiver = afterStop err
      ∧ (t.port p).monitor ≠ .released ∧ (t.port p).markSpan = 0 ∧ (t.port p).counters = (s.port p).counters
      ∧ t.scheduler p = s.scheduler p ∧ LineSeen p err s t
      ∧ t.exchanges = addressTold p w s.exchanges ∧ t.notices = s.notices

/-- An address character, in error or not, that finds no FREE descriptor posts DESCRIPTOR_EXHAUSTED and puts the
receiver in DISCARDING with a counted length of 1, taking no storage, the Exchange Monitor being told as of any other
(R58, R80, R118, R121). One that finds a descriptor and no cell takes the descriptor with length 1 and no cell, its
damage the character's error, else LATE where it marks the telegram late, else SHORTFALL, and storing is stopped (R59,
R83, R118). The 257th character of a telegram is not stored and records OVERLENGTH, and a cell needed and not found
records SHORTFALL, unless damage stands already; storing stops, and nothing is posted (R81, R82, R83, R120). These
points are the model's: a character's own error is recorded before SHORTFALL and OVERLENGTH (entry 12), the report is
taken wherever the character receiver stands and ends the character there (entry 1), with no start edge before it too,
and sets the level of the line (entry 13); it is read under the format of its start edge (entry 23), an error that
contradicts it as given (entry 19); and a completion without a descriptor has its wide flag clear (entry 34). -/
def Obligations.StorageExhaustionIsRecorded : Prop :=
  (∀ (p : Port) (s : State) (v w : Chr) (m pb : Bool) (err : Option CharError) (ks : List Completion),
      StartsTelegram p s m err ks → w = takenValue v err →
      ((s.port p).charFormat.width = .eight ∨ v.toNat ≤ 0x7F) → s.pool.freeDescriptor? = none →
      ∃ t, exec (.characterReport p v m pb err) s = .next t
        ∧ (t.port p).completions = (s.port p).completions ++ ks
        ∧ (t.port p).receiver = .discarding w 1 ∧ (t.port p).charReceiver = afterStop err
        ∧ t.notices = s.notices.post .descriptorExhausted (some p) (some w) none
        ∧ t.exchanges = addressTold p w s.exchanges
        ∧ t.pool = s.pool ∧ t.scheduler p = s.scheduler p ∧ (t.port p).counters = (s.port p).counters
        ∧ LineSeen p err s t)
  ∧ (∀ (p : Port) (s : State) (v : Chr) (m pb : Bool) (err : Option CharError) (d : DescNo),
      (s.port p).receiver = .inTelegram d true →
      ((s.port p).charFormat.framing = .idleLine ∨ m = false ∨ err = some .brk) →
      ((s.pool.descriptor d).length = 256
        ∨ (s.pool.descriptor d).length < 256 ∧ (s.pool.descriptor d).length % 32 = 0 ∧ s.pool.free = []) →
      ∃ t, exec (.characterReport p v m pb err) s = .next t
        ∧ t.pool.descriptor d = { s.pool.descriptor d with
            damage := ((s.pool.descriptor d).damage.or (err.map CharError.damage)).or
              (some (if (s.pool.descriptor d).length = 256 then .overlength else .shortfall)) }
        ∧ (∀ e, e ≠ d → t.pool.descriptor e = s.pool.descriptor e)
        ∧ t.pool.free = s.pool.free ∧ t.pool.cells = s.pool.cells
        ∧ (t.port p).receiver = .inTelegram d false ∧ (t.port p).charReceiver = afterStop err
        ∧ (t.port p).counters = (s.port p).counters ∧ (t.port p).completions = (s.port p).completions
        ∧ t.scheduler p = s.scheduler p ∧ LineSeen p err s t ∧ t.exchanges = s.exchanges ∧ t.notices = s.notices)
  ∧ (∀ (p : Port) (s : State) (v w : Chr) (m pb : Bool) (err : Option CharError) (d : DescNo) (ks : List Completion),
      ExchangesSound s → StartsTelegram p s m err ks → w = takenValue v err →
      ((s.port p).charFormat.width = .eight ∨ v.toNat ≤ 0x7F) → s.pool.freeDescriptor? = some d → s.pool.free = [] →
      ∃ t, exec (.characterReport p v m pb err) s = .next t
        ∧ (t.port p).completions = (s.port p).completions ++ ks
        ∧ t.pool.descriptor d = ⟨.receiving, p, w, 1, [], false,
            ((err.map CharError.damage).or (lateMark p w s.exchanges)).or (some .shortfall), 1⟩
        ∧ (∀ k, k ≠ d → t.pool.descriptor k = s.pool.descriptor k)
        ∧ t.pool.free = [] ∧ t.pool.cells = s.pool.cells
        ∧ (t.port p).receiver = .inTelegram d false ∧ (t.port p).charReceiver = afterStop err
        ∧ (t.port p).counters = (s.port p).counters
        ∧ t.scheduler p = s.scheduler p ∧ LineSeen p err s t
        ∧ t.exchanges = addressTold p w s.exchanges ∧ t.notices = s.notices)

/-- CHARACTER_REPORT of a body character of a telegram still stored: the character is stored after the one before it, in
a new cell where a cell boundary is reached, the length rises by one, a value above 7Fh sets the wide flag, a parity
error, a framing error or a break becomes the damage where none stands, a break being stored as 00h, and every other
stored character is kept, in IDLE_LINE framing and, without the marker bit, in ADDRESS_BIT framing (R81, R82, R120). A
telegram whose storing has stopped takes the character without storing it and keeps its first damage (R82, R120).
Characters that are not stored, whatever error they carry: SETTLING and OFF set them aside without a count, IDLE in
ADDRESS_BIT framing counts one without the marker bit in rx_discarded, and DISCARDING counts it in the length, up to
256; storage, records, notices, queue and completions stay, and the character receiver awaits the return of mark after a
framing error or a break and the next start edge otherwise (R116, R117, R119, R124, R142). These points are the model's:
the report is taken wherever the character receiver stands and ends the character there (entry 1), with no start edge
before it too, and sets the level of the line, which on the trunk arms the break (entry 13); it is read under the format
of its start edge (entry 23), an error that contradicts it as given (entry 19). -/
def Obligations.BodyCharacterIsStored : Prop :=
  (∀ (p : Port) (s : State) (v : Chr) (pb : Bool) (err : Option CharError) (d : DescNo) (c : CellNo),
      CellsCanonical s → (s.port p).receiver = .inTelegram d true → (s.port p).charFormat.framing = .idleLine →
      ((s.port p).charFormat.width = .eight ∨ v.toNat ≤ 0x7F) → (err = none ∨ err = some .parity) →
      (s.pool.descriptor d).length < 256 → (s.pool.descriptor d).cells.length = ((s.pool.descriptor d).length + 31) / 32 →
      (if (s.pool.descriptor d).length % 32 = 0 then s.pool.free.head? = some c
       else (s.pool.descriptor d).cells[(s.pool.descriptor d).length / 32]? = some c) →
      ∃ t, exec (.characterReport p v false pb err) s = .next t
        ∧ t.pool.descriptor d = { s.pool.descriptor d with
            length := (s.pool.descriptor d).length + 1
            wide := (s.pool.descriptor d).wide || decide (0x7F < v.toNat)
            damage := (s.pool.descriptor d).damage.or (err.map CharError.damage)
            cells := if (s.pool.descriptor d).length % 32 = 0 then (s.pool.descriptor d).cells ++ [c]
                     else (s.pool.descriptor d).cells }
        ∧ t.pool.free = (if (s.pool.descriptor d).length % 32 = 0 then s.pool.free.tail else s.pool.free)
        ∧ t.pool.charAt d (s.pool.descriptor d).length = v
        ∧ StoredKept (c.val * 32 + (s.pool.descriptor d).length % 32) 1 s t
        ∧ (∀ e, e ≠ d → t.pool.descriptor e = s.pool.descriptor e)
        ∧ (t.port p).receiver = .inTelegram d true ∧ (t.port p).counters = (s.port p).counters
        ∧ t.scheduler p = s.scheduler p ∧ MarkKept p s t ∧ t.exchanges = s.exchanges ∧ t.notices = s.notices)
  ∧ (∀ (p : Port) (s : State) (v : Chr) (m pb : Bool) (err : Option CharError) (d : DescNo) (c : CellNo),
      CellsCanonical s → (s.port p).receiver = .inTelegram d true →
      ((s.port p).charFormat.framing = .idleLine ∨ m = false ∨ err = some .brk) →
      ((s.port p).charFormat.width = .eight ∨ v.toNat ≤ 0x7F) →
      (s.pool.descriptor d).length < 256 → (s.pool.descriptor d).cells.length = ((s.pool.descriptor d).length + 31) / 32 →
      (if (s.pool.descriptor d).length % 32 = 0 then s.pool.free.head? = some c
       else (s.pool.descriptor d).cells[(s.pool.descriptor d).length / 32]? = some c) →
      ∃ t, exec (.characterReport p v m pb err) s = .next t
        ∧ t.pool.descriptor d = { s.pool.descriptor d with
            length := (s.pool.descriptor d).length + 1
            wide := (s.pool.descriptor d).wide || decide (0x7F < (takenValue v err).toNat)
            damage := (s.pool.descriptor d).damage.or (err.map CharError.damage)
            cells := if (s.pool.descriptor d).length % 32 = 0 then (s.pool.descriptor d).cells ++ [c]
                     else (s.pool.descriptor d).cells }
        ∧ t.pool.free = (if (s.pool.descriptor d).length % 32 = 0 then s.pool.free.tail else s.pool.free)
        ∧ t.pool.charAt d (s.pool.descriptor d).length = takenValue v err
        ∧ StoredKept (c.val * 32 + (s.pool.descriptor d).length % 32) 1 s t
        ∧ (∀ e, e ≠ d → t.pool.descriptor e = s.pool.descriptor e)
        ∧ (t.port p).receiver = .inTelegram d true ∧ (t.port p).charReceiver = afterStop err
        ∧ (t.port p).counters = (s.port p).counters ∧ (t.port p).completions = (s.port p).completions
        ∧ t.scheduler p = s.scheduler p ∧ LineSeen p err s t ∧ t.exchanges = s.exchanges ∧ t.notices = s.notices)
  ∧ (∀ (p : Port) (s : State) (v : Chr) (m pb : Bool) (err : Option CharError) (d : DescNo),
      (s.port p).receiver = .inTelegram d false →
      ((s.port p).charFormat.framing = .idleLine ∨ m = false ∨ err = some .brk) →
      ∃ t, exec (.characterReport p v m pb err) s = .next t
        ∧ t.pool.descriptor d =
            { s.pool.descriptor d with damage := (s.pool.descriptor d).damage.or (err.map CharError.damage) }
        ∧ (∀ e, e ≠ d → t.pool.descriptor e = s.pool.descriptor e)
        ∧ t.pool.free = s.pool.free ∧ t.pool.cells = s.pool.cells
        ∧ (t.port p).receiver = .inTelegram d false ∧ (t.port p).charReceiver = afterStop err
        ∧ (t.port p).counters = (s.port p).counters ∧ (t.port p).completions = (s.port p).completions
        ∧ t.scheduler p = s.scheduler p ∧ LineSeen p err s t ∧ t.exchanges = s.exchanges ∧ t.notices = s.notices)
  ∧ (∀ (p : Port) (s : State) (v : Chr) (m pb : Bool) (err : Option CharError),
      (s.port p).counters.rxDiscarded ≤ 65535 →
      ∃ t, exec (.characterReport p v m pb err) s = .next t
        ∧ ((s.port p).receiver = .off ∨ (s.port p).receiver = .settling
            ∨ (s.port p).receiver = .idle ∧ (s.port p).charFormat.framing = .addressBit ∧ m = false
            ∨ (∃ a n, (s.port p).receiver = .discarding a n)
              ∧ ((s.port p).charFormat.framing = .idleLine ∨ m = false) →
            CharacterKept p s t
              ∧ (t.port p).charReceiver =
                  if err = some .framing ∨ err = some .brk then .awaitMark else .awaitStart)
        ∧ ((s.port p).receiver = .off ∨ (s.port p).receiver = .settling →
            (t.port p).receiver = (s.port p).receiver ∧ (t.port p).counters = (s.port p).counters)
        ∧ ((s.port p).receiver = .idle → (s.port p).charFormat.framing = .addressBit → m = false →
            (t.port p).receiver = .idle
              ∧ (t.port p).counters =
                  { (s.port p).counters with rxDiscarded := min 65535 ((s.port p).counters.rxDiscarded + 1) })
        ∧ (∀ a n, (s.port p).receiver = .discarding a n →
            ((s.port p).charFormat.framing = .idleLine ∨ m = false) →
            (t.port p).receiver = .discarding a (min 256 (n + 1)) ∧ (t.port p).counters = (s.port p).counters))

/-- END_GAP on a quiet line: an open telegram's completion is raised last in the port's FIFO with the items of Table 2-1
and the receiver enters IDLE, SETTLING becomes IDLE, and any other receiver stays; storage, queue, counters and the
other blocks are kept (R84, R117, R122, R124). On the trunk an open telegram that is a management request is decided in
the very step: with no completion and no request waiting before it, the step does all that TELEGRAM_COMPLETION and
MGMT_REQUEST do after the end gap, and a request of good form runs its command there, whose reply is so offered in the
step that raises the completion (R27, R32, R176, R196). That the event is taken at any mark span, which it raises to the
end gap, is the model's choice (entry 1), and so is that a request which is rejected or waits for its reply is decided
in the step as one answered at once (entry 32). So are the moments at which a line is quiet (entry 15) and the clear
wide flag of a completion without a descriptor (entry 34). -/
def Obligations.EndGapClosesTelegram : Prop :=
  (∀ (p : Port) (s : State), (s.port p).quiet = true →
      ¬(p = .trunk ∧ ∃ d b, (s.port p).receiver = .inTelegram d b ∧ (s.pool.descriptor d).damage = none
          ∧ (s.pool.descriptor d).address = s.mgmtAddress) →
      ∃ t, exec (.endGap p) s = .next t
        ∧ t = s.setPort p { s.port p with
            receiver := (t.port p).receiver, completions := (t.port p).completions,
            markSpan := (t.port p).markSpan, charTail := 0 }
        ∧ (s.port p).format.endGap * (s.port p).format.bitTime ≤ (t.port p).markSpan
        ∧ (∀ d b, (s.port p).receiver = .inTelegram d b →
            (t.port p).receiver = .idle ∧ (t.port p).completions = (s.port p).completions ++
              [⟨(s.pool.descriptor d).address, some d, (s.pool.descriptor d).length, (s.pool.descriptor d).wide,
                (s.pool.descriptor d).damage⟩])
        ∧ (∀ a n, (s.port p).receiver = .discarding a n →
            (t.port p).receiver = .idle ∧ (t.port p).completions = (s.port p).completions ++ [⟨a, none, n, false, none⟩])
        ∧ ((s.port p).receiver = .settling →
            (t.port p).receiver = .idle ∧ (t.port p).completions = (s.port p).completions)
        ∧ ((s.port p).receiver = .off ∨ (s.port p).receiver = .idle ∨ (∃ k, (s.port p).receiver = .echo k) →
            (t.port p).receiver = (s.port p).receiver ∧ (t.port p).completions = (s.port p).completions))
  ∧ (∀ (s : State) (d : DescNo) (b : Bool), (s.port .trunk).quiet = true →
      (s.port .trunk).receiver = .inTelegram d b → (s.pool.descriptor d).damage = none →
      (s.pool.descriptor d).address = s.mgmtAddress → (s.port .trunk).completions = [] → s.agent.requests = [] →
      ∃ n t u, (s.port .trunk).format.endGap * (s.port .trunk).format.bitTime ≤ n
        ∧ exec (.endGap .trunk) s = .next t
        ∧ exec (.telegramCompletion .trunk) (s.setPort .trunk { s.port .trunk with
            receiver := .idle, markSpan := n, charTail := 0,
            completions := [⟨(s.pool.descriptor d).address, some d, (s.pool.descriptor d).length,
              (s.pool.descriptor d).wide, none⟩] }) = .next u
        ∧ u.agent.requests = [d] ∧ exec .mgmtRequest u = .next t
        ∧ ∀ (a seq code : Chr) (params : List Chr) (c : Instr), params.length ≤ 59 →
            c.requestOf = some (⟨seq, code⟩, params) → (s.port .trunk).counters.rxTelegrams ≤ 65535 →
            s.pool.telegram d = [a, code, seq] ++ params ++ twoChars (crc16 ([a, code, seq] ++ params)) →
            exec c { s.setPort .trunk { s.port .trunk with
                receiver := .idle, markSpan := n, charTail := 0,
                counters := { (s.port .trunk).counters with
                  rxTelegrams := min 65535 ((s.port .trunk).counters.rxTelegrams + 1) } } with
              pool := s.pool.giveUp d } = .next t)

/-! ### Transmission -/

/-- A head is held under the four conditions of Table 5-4 and no other. LINE_RELEASE from BUSY on a quiet line: the line
monitor is RELEASED. A scheduler in RESERVED decides its head again: held, it goes to HEAD_HELD; not held and without an
exchange request, its attempt starts, the receiver in ECHO and the transmitter at the line address in the format in
force; not held and with an exchange request, the table having room and no record on the pair, its record opens in
SENDING with the request's fields and the next opening sequence, which advances, and the attempt starts. An attempt that
starts while a telegram is open on the port closes it first, its completion raised last in the port's FIFO. Any other
scheduler lets the release pass (R44, R52, R54, R97, R99, R100, R122, R125, R128). These points are the model's: the
moments at which a line is quiet (entry 15), the backoff gap that the scheduler keeps outside BACKOFF (entry 33), the
clear wide flag of a completion without a descriptor (entry 34), and two more: the mark span is brought to the guard
whatever it was (entry 1), and the line monitor still shows RELEASED after the start of the attempt (entry 16). -/
def Obligations.LineReleaseStartsReservedHead : Prop :=
  (∀ (p : Port) (s : State) (e : QueueEntry),
      s.held p e = true ↔
        (s.port p).admin ≠ .active
        ∨ (s.port p).format.overlap
            ≤ (s.exchanges.records.filter fun r => decide (r.target = p ∧ r.state ≠ .lapsed)).length
        ∨ e.request ≠ none ∧ 16 ≤ s.exchanges.records.length ∧ (∀ r ∈ s.exchanges.records, r.state ≠ .lapsed)
        ∨ e.request ≠ none ∧ ∃ r ∈ s.exchanges.records, r.target = p ∧ r.line = e.line ∧ r.state ≠ .lapsed)
  ∧ ∀ (p : Port) (s : State), (s.port p).monitor = .busy → (s.port p).quiet = true →
    ∃ t, exec (.lineRelease p) s = .next t ∧ (t.port p).monitor = .released
      ∧ (s.port p).format.guardGap * (s.port p).format.bitTime ≤ (t.port p).markSpan
      ∧ ((s.scheduler p).phase ≠ .reserved →
          t = s.setPort p { s.port p with monitor := .released, markSpan := (t.port p).markSpan, charTail := 0 })
      ∧ (∀ e rest, (s.scheduler p).phase = .reserved → (s.scheduler p).queue = e :: rest → s.held p e = true →
          t = s.setPort p { s.port p with
            monitor := .released, markSpan := (t.port p).markSpan, charTail := 0,
            scheduler := { s.scheduler p with phase := .headHeld } })
      ∧ (∀ e rest, (s.scheduler p).phase = .reserved → (s.scheduler p).queue = e :: rest → s.held p e = false →
          e.request = none → (s.port p).receiver = .idle ∨ (s.port p).receiver = .settling →
          t = s.setPort p { s.port p with
            monitor := .released, markSpan := (t.port p).markSpan, charTail := 0, receiver := .echo 0,
            transmitter := .sending (s.port p).format 0 ((s.port p).format.levels e.line true) 0 0 false,
            scheduler := { s.scheduler p with phase := .onLine } })
      ∧ (∀ e rest q, (s.scheduler p).phase = .reserved → (s.scheduler p).queue = e :: rest → s.held p e = false →
          e.request = some q → s.exchanges.records.length < 16 → s.exchanges.find p e.line = none →
          t.exchanges = { s.exchanges with
              records := s.exchanges.records ++
                [⟨p, e.line, q.origin, q.originAddress, q.window, q.standIn, .sending, 0, some e.desc, false,
                  s.exchanges.nextSeq⟩]
              nextSeq := s.exchanges.nextSeq + 1 }
            ∧ (t.scheduler p).phase = .onLine ∧ (t.port p).receiver = .echo 0 ∧ (t.scheduler p).queue = e :: rest
            ∧ OtherPortsKept p s t ∧ t.pool = s.pool ∧ BlocksKept s t)
      ∧ (∀ e rest k, (s.scheduler p).phase = .reserved → (s.scheduler p).queue = e :: rest → s.held p e = false →
          e.request = none →
          ((∃ o b, (s.port p).receiver = .inTelegram o b
              ∧ k = ⟨(s.pool.descriptor o).address, some o, (s.pool.descriptor o).length, (s.pool.descriptor o).wide,
                  (s.pool.descriptor o).damage⟩)
            ∨ ∃ a n, (s.port p).receiver = .discarding a n ∧ k = ⟨a, none, n, false, none⟩) →
          t = s.setPort p { s.port p with
            monitor := .released, markSpan := (t.port p).markSpan, charTail := 0, receiver := .echo 0,
            completions := (s.port p).completions ++ [k],
            transmitter := .sending (s.port p).format 0 ((s.port p).format.levels e.line true) 0 0 false,
            scheduler := { s.scheduler p with phase := .onLine } })

/-- An opening into a full table whose pair holds no record: refused, nothing changed, where no record is LAPSED or the
port's open records reach its overlap depth; else the oldest LAPSED record, and no other, is freed for the new one (R50,
R52, R53). An opening on a pair that holds a record, in a table however full: refused where that record is open or the
port's open records reach its overlap depth; else the pair's LAPSED record, and no other, is freed for the new one (R52,
R53). That the new record stands last in the table's list is entry 20. -/
def Obligations.OpeningMakesRoom : Prop :=
  (∀ (m : ExchangeMonitor) (depth : Nat) (p : Port) (e : QueueEntry) (q : ExchangeRequest),
      m.records.Pairwise (fun a b => ¬(a.target = b.target ∧ a.line = b.line)) → m.records.length = 16 →
      m.find p e.line = none →
      ((m.records.all ExchangeRecord.isOpen = true ∨ depth ≤ m.openCount p) → m.opening depth p e q = none)
      ∧ (m.records.any (fun r => !r.isOpen) = true → m.openCount p < depth →
          ∃ old ∈ m.records, old.isOpen = false
            ∧ (∀ r ∈ m.records, r.isOpen = false → m.age r ≤ m.age old)
            ∧ m.opening depth p e q =
                some { m with
                  records := m.records.filter (fun r => decide (r ≠ old)) ++
                    [⟨p, e.line, q.origin, q.originAddress, q.window, q.standIn, .sending, 0, some e.desc, false, m.nextSeq⟩]
                  nextSeq := m.nextSeq + 1 }))
  ∧ (∀ (m : ExchangeMonitor) (depth : Nat) (p : Port) (e : QueueEntry) (q : ExchangeRequest) (r : ExchangeRecord),
      m.records.Pairwise (fun a b => ¬(a.target = b.target ∧ a.line = b.line)) → m.records.length ≤ 16 →
      m.find p e.line = some r →
      ((r.state ≠ .lapsed ∨ depth ≤ m.openCount p) → m.opening depth p e q = none)
      ∧ (r.state = .lapsed → m.openCount p < depth →
          m.opening depth p e q =
            some { m with
              records := m.records.filter (fun x => decide (x ≠ r)) ++
                [⟨p, e.line, q.origin, q.originAddress, q.window, q.standIn, .sending, 0, some e.desc, false, m.nextSeq⟩]
              nextSeq := m.nextSeq + 1 }))

/-- BACKOFF_END with the receiver in IDLE: the next attempt of the head starts at once, without hold conditions and
without an opening, the line released (R105, R109). These points are the model's: the moments at which a line is quiet
(entry 15), the gap that the scheduler keeps once the retry has started (entry 33), and two more: the mark span, which
is the backoff count too, is brought to the backoff gap whatever it was (entries 1 and 28), and the line monitor still
shows RELEASED after the start (entry 16). -/
def Obligations.BackoffEndRetries : Prop :=
  ∀ (p : Port) (s : State) (e : QueueEntry) (rest : List QueueEntry),
    (s.scheduler p).phase = .backoff → (s.scheduler p).queue = e :: rest → (s.port p).quiet = true →
    (s.port p).receiver = .idle → (s.port p).monitor ≠ .spaceHeld →
    ∃ t, exec (.backoffEnd p) s = .next t
      ∧ t = s.setPort p { s.port p with
          monitor := .released, markSpan := (t.port p).markSpan, charTail := 0, receiver := .echo 0,
          transmitter := .sending (s.port p).format 0 ((s.port p).format.levels e.line true) 0 0 false,
          scheduler := { s.scheduler p with phase := .onLine } }
      ∧ (s.scheduler p).backoffGap * (s.port p).format.bitTime ≤ (t.port p).markSpan

/-- CHARACTER_REPORT in ECHO, in any format: a character that agrees in value, parity bit and, in ADDRESS_BIT framing,
marker bit, which is set at the line address alone, moves the check on and changes nothing but the line. One that
differs in any of them, a parity error, a framing error or a break is a collision: counted, the transmission cut, the
attempt count raised, and the scheduler in BACKOFF with guard + 12 n + 3 p bit-times while the count does not exceed the
retry limit (R102, R104, R105, R145). A report of no error whose parity bit does not check, which no receiver gives, is
judged by its parity bit, which is the model's choice (entry 19). So are these: the report is taken wherever the
character receiver stands and ends the character there (entry 1), with no start edge before it too, and sets the level
of the line, which on the trunk arms the break (entry 13); it is read under the format of its start edge (entry 23). -/
def Obligations.EchoCheckFindsCollision : Prop :=
  (∀ (p : Port) (s : State) (e : QueueEntry) (rest : List QueueEntry) (pos : Nat) (v : Chr) (pb : Bool) (f : FormatRecord)
      (i bit tick : Nat) (ls : List Level) (cut : Bool),
      (s.scheduler p).phase = .onLine → (s.scheduler p).queue = e :: rest → (s.port p).receiver = .echo pos →
      pos < (s.pool.descriptor e.desc).length → (s.port p).transmitter = .sending f i ls bit tick cut →
      (s.port p).charFormat = f → f.width = .eight → f.framing = .idleLine → f.parity ≠ .noParity →
      (s.port p).counters.collisions ≤ 65535 → (s.scheduler p).attempts + 1 ≤ (s.port p).format.retryLimit →
      ∃ t, exec (.characterReport p v false pb none) s = .next t ∧ MarkKept p s t ∧ t.pool = s.pool
        ∧ t.exchanges = s.exchanges ∧ t.notices = s.notices ∧ (t.scheduler p).queue = e :: rest
        ∧ if v = s.pool.sentChar e pos ∧ pb = f.parityBit v false then
            (t.port p).receiver = .echo (pos + 1) ∧ (t.port p).counters = (s.port p).counters
              ∧ (t.port p).transmitter = (s.port p).transmitter ∧ t.scheduler p = s.scheduler p
          else
            (t.port p).counters = { (s.port p).counters with collisions := min 65535 ((s.port p).counters.collisions + 1) }
              ∧ (t.port p).transmitter = .sending f i ls bit tick true
              ∧ t.scheduler p = { s.scheduler p with
                  phase := .backoff, attempts := (s.scheduler p).attempts + 1,
                  backoffGap := (s.port p).format.guardGap + 12 * ((s.scheduler p).attempts + 1) + 3 * p.number })
  ∧ (∀ (p : Port) (s : State) (e : QueueEntry) (rest : List QueueEntry) (pos : Nat) (v : Chr) (m pb : Bool)
      (err : Option CharError) (f : FormatRecord) (i bit tick : Nat) (ls : List Level) (cut : Bool),
      (s.scheduler p).phase = .onLine → (s.scheduler p).queue = e :: rest → (s.port p).receiver = .echo pos →
      pos < (s.pool.descriptor e.desc).length → (s.port p).transmitter = .sending f i ls bit tick cut →
      (s.port p).charFormat = f → (f.width = .eight ∨ v.toNat ≤ 0x7F) → (f.framing = .addressBit ∨ m = false) →
      (f.parity ≠ .noParity ∨ pb = false) →
      (err = some .parity → f.parity ≠ .noParity ∧ pb ≠ f.parityBit v m) →
      (s.port p).counters.collisions ≤ 65535 → (s.scheduler p).attempts + 1 ≤ (s.port p).format.retryLimit →
      ∃ t, exec (.characterReport p v m pb err) s = .next t ∧ LineSeen p err s t ∧ t.pool = s.pool
        ∧ t.exchanges = s.exchanges ∧ t.notices = s.notices ∧ (t.port p).completions = (s.port p).completions
        ∧ (t.port p).charReceiver = afterStop err
        ∧ if err = none ∧ v = f.fit (s.pool.sentChar e pos) ∧ m = decide (f.framing = .addressBit ∧ pos = 0)
              ∧ (f.parity = .noParity ∨ pb = f.parityBit v m) then
            (t.port p).receiver = .echo (pos + 1) ∧ (t.port p).counters = (s.port p).counters
              ∧ (t.port p).transmitter = (s.port p).transmitter ∧ t.scheduler p = s.scheduler p
          else
            (t.port p).counters =
                { (s.port p).counters with collisions := min 65535 ((s.port p).counters.collisions + 1) }
              ∧ (t.port p).receiver = .echo pos ∧ (t.port p).transmitter = .sending f i ls bit tick true
              ∧ t.scheduler p = { s.scheduler p with
                  phase := .backoff, attempts := (s.scheduler p).attempts + 1,
                  backoffGap := (s.port p).format.guardGap + 12 * ((s.scheduler p).attempts + 1) + 3 * p.number })

/-- ECHO_MISSING while the retry limit allows another attempt is a collision: counted, the transmission cut, the
scheduler in BACKOFF with the gap of R105; the queue, storage, records and every other port are kept (R102, R104, R105).
That the event is taken wherever the transmitter stands is the model's choice (entry 1). So is that a RELEASED line
becomes BUSY with it (entry 16). -/
def Obligations.EchoMissingBacksOff : Prop :=
  ∀ (p : Port) (s : State) (e : QueueEntry) (rest : List QueueEntry) (pos : Nat),
    (s.scheduler p).phase = .onLine → (s.scheduler p).queue = e :: rest → (s.port p).receiver = .echo pos →
    pos < (s.pool.descriptor e.desc).length → (s.scheduler p).attempts + 1 ≤ (s.port p).format.retryLimit →
    (s.port p).counters.collisions ≤ 65535 →
    ∃ t, exec (.echoMissing p) s = .next t
      ∧ t = s.setPort p { s.port p with
          markSpan := 0, charTail := 0, monitor := (t.port p).monitor,
          transmitter := (s.port p).transmitter.cutShort,
          counters := { (s.port p).counters with collisions := min 65535 ((s.port p).counters.collisions + 1) },
          scheduler := { s.scheduler p with
            phase := .backoff, attempts := (s.scheduler p).attempts + 1,
            backoffGap := (s.port p).format.guardGap + 12 * ((s.scheduler p).attempts + 1) + 3 * p.number } }
      ∧ (t.port p).monitor ≠ .released

/-- A collision that raises the attempt count above the retry limit abandons the head, whether it comes by ECHO_MISSING
or by CHARACTER_REPORT of a character that differs or is in error: the head leaves, its descriptor loses one reference,
TX_ABANDONED is posted, and the consecutive-abandon count rises, on the trunk and in the record at most to 15 (R102,
R104, R106, R107). A SENDING record of the head closes UNREACHABLE, with EXCHANGE_CLOSED and, where stand-in is ON and
its offer is taken, its stand-in reply (R62, R65, R69, R70). On the trunk, and on a branch below its abandon limit, the
next head is decided, no earlier than the next release. At the limit a branch faults CONTENTION with PORT_FAULTED: its
queue is emptied, the receiver is OFF, and no open record and no late hold is left on it; with no stand-in ON among its
open records, each entry loses its reference, PURGED gives the number of the rest, and the records close, the head's
first, the others the youngest first, each with EXCHANGE_CLOSED (R62, R63, R112, R157). These points are the model's.
TX_ABANDONED stands before EXCHANGE_CLOSED and PORT_FAULTED before PURGED (entry 4). A receiver in ECHO is OFF in this
very step (entry 11). The event is taken wherever the transmitter or the character receiver stands (entry 1), a report
with no start edge before it too, and it sets the level of the line (entry 13); a report that contradicts its parity bit
is judged by that bit (entry 19) and read under the format of its start edge (entry 23). A RELEASED line becomes BUSY
with the event, and a RELEASED line is not free for a stand-in reply's head while its port's driver finishes a cut
character, nor changed by the start (entry 16). The backoff gap is 0 once the head has left (entry 33). A completion
without a descriptor, which a stand-in reply's start may raise, has its wide flag clear (entry 34). The reply that a
format or a restart waits for is in ReplyLeavingRestarts. -/
def Obligations.RetryLimitAbandonsHead : Prop :=
  ∀ (p : Port) (s : State) (e : QueueEntry) (rest : List QueueEntry) (pos : Nat) (c : Instr),
    (s.scheduler p).phase = .onLine → (s.scheduler p).queue = e :: rest → (s.port p).receiver = .echo pos →
    pos < (s.pool.descriptor e.desc).length → Collision p s e pos c → (s.port p).format.retryLimit < (s.scheduler p).attempts + 1 →
    (e.desc = 0 → s.trunk.pendingFormat = none ∧ s.agent.restartPending = none) →
    (s.port p).admin = .active → (s.port p).counters.collisions ≤ 65535 → ExchangesSound s →
    (∀ q, (s.scheduler q).phase ≠ .headHeld) → s.trunk.pendingDepth = none →
    ∃ t, exec c s = .next t ∧ CollisionLine p c s t
      ∧ (t.scheduler p).abandons = min 15 ((s.scheduler p).abandons + 1) ∧ (t.scheduler p).attempts = 0
      ∧ (t.port p).transmitter = (s.port p).transmitter.cutShort
      ∧ (t.port p).counters =
          { (s.port p).counters with collisions := min 65535 ((s.port p).counters.collisions + 1) }
      ∧ t.routes = s.routes ∧ t.agent = s.agent
      ∧ t.trunk = { s.trunk with breakState := t.trunk.breakState }
      ∧ (s.notices.records.length < Config.noticeCount →
          t.notices.records[s.notices.records.length]? =
            some ⟨s.notices.nextStamp, .txAbandoned, some p, some e.line, none⟩)
      -- the trunk, and a branch below its abandon limit
      ∧ ((p = .trunk ∨ min 15 ((s.scheduler p).abandons + 1) < (s.port p).format.abandonLimit) →
          (t.port p).admin = .active
            ∧ (c = .echoMissing p → (t.port p).limitReached = (s.port p).limitReached)
            ∧ (s.exchanges.sendingRecord p e.desc = none →
                t = { s.setPort p { (s.port p).withLine (t.port p) with
                        transmitter := (t.port p).transmitter, counters := (t.port p).counters,
                        scheduler := t.scheduler p } with
                      trunk := t.trunk
                      pool := s.pool.dropRef e.desc
                      notices := s.notices.post .txAbandoned (some p) (some e.line) none }
                  ∧ (t.scheduler p).queue = rest
                  ∧ (rest = [] → (t.scheduler p).phase = .empty)
                  ∧ (rest ≠ [] → (t.scheduler p).phase = .reserved ∨ (t.scheduler p).phase = .headHeld))
            ∧ (∀ r, s.exchanges.sendingRecord p e.desc = some r → r.standIn = false →
                t = { s.setPort p { (s.port p).withLine (t.port p) with
                        transmitter := (t.port p).transmitter, counters := (t.port p).counters,
                        scheduler := t.scheduler p } with
                      trunk := t.trunk
                      pool := s.pool.dropRef e.desc
                      exchanges := { s.exchanges with records := s.exchanges.records.filter fun x => decide (x ≠ r) }
                      notices := (s.notices.post .txAbandoned (some p) (some e.line) none).post .exchangeClosed (some p)
                        (some r.line) (some 3) }
                  ∧ (t.scheduler p).queue = rest)
            ∧ (∀ r d k, s.exchanges.sendingRecord p e.desc = some r → r.standIn = true → r.origin ≠ p →
                CellsCanonical s → s.agent.settings.inRanges = true → (∀ x ∈ rest, x.desc ≠ d) →
                StandInTaken { s with pool := s.pool.dropRef e.desc } r .unreachable d k →
                StandInQueued s t r .unreachable d k
                  ∧ (∀ x, x ≠ d → t.pool.descriptor x = (s.pool.dropRef e.desc).descriptor x)
                  ∧ t.exchanges = { s.exchanges with records := s.exchanges.records.filter fun x => decide (x ≠ r) }
                  ∧ t.notices = (s.notices.post .txAbandoned (some p) (some e.line) none).post .exchangeClosed (some p)
                      (some r.line) (some 3)
                  ∧ (t.scheduler p).queue = rest))
      -- a branch at its abandon limit
      ∧ (p ≠ .trunk → (s.port p).format.abandonLimit ≤ min 15 ((s.scheduler p).abandons + 1) →
          (t.scheduler p).queue = [] ∧ (t.scheduler p).phase = .empty ∧ (t.port p).admin = .faulted
            ∧ (t.port p).lastFault = some .contention ∧ (t.port p).receiver = .off
            ∧ (∀ x ∈ t.exchanges.records, x.target = p → x.isOpen = false ∧ x.lateHold = false)
            ∧ ((∀ x ∈ s.exchanges.records, x.target = p → x.isOpen = false) →
                OtherPortsKept p s t
                  ∧ t.pool = (e :: rest).foldl (fun q x => q.dropRef x.desc) s.pool
                  ∧ t.exchanges = { s.exchanges with
                      records := s.exchanges.records.filter fun x => !(decide (x.target = p) && x.lateHold) }
                  ∧ t.notices =
                      (let faulted := (s.notices.post .txAbandoned (some p) (some e.line) none).post .portFaulted
                         (some p) none (some 2)
                       if rest = [] then faulted
                       else faulted.post .purged (some p) none (some (BitVec.ofNat 16 rest.length))))
            ∧ (∀ u : State, (∀ x ∈ s.exchanges.records, x.target = p → x.isOpen = true → x.standIn = false) →
                (s.exchanges.sendingRecord p e.desc = none
                    ∧ u = { s with notices := s.notices.post .txAbandoned (some p) (some e.line) none }
                  ∨ ∃ r, s.exchanges.sendingRecord p e.desc = some r
                    ∧ u = { s with
                        exchanges := { s.exchanges with records := s.exchanges.records.filter fun x => decide (x ≠ r) }
                        notices := (s.notices.post .txAbandoned (some p) (some e.line) none).post .exchangeClosed
                          (some p) (some r.line) (some 3) }) →
                OtherPortsKept p s t
                  ∧ t.pool = (e :: rest).foldl (fun q x => q.dropRef x.desc) s.pool
                  ∧ RecordsLost p u t
                      ((u.notices.post .portFaulted (some p) none (some 2)).purgedOf p rest.length) fun _ => none))

/-- ATTEMPT_COMPLETION when every character has compared good: the driver is released, the head leaves and its
descriptor loses one reference, tx_telegrams rises, the consecutive-abandon count is 0, a matching SENDING record goes
to AWAITING with its whole window and no request descriptor, and the next head waits for a release (R55, R86, R99,
R103). The management reply leaves just so where no format and no restart waits for it: its descriptor stays as it is,
its count down to 0 (R89, R111). That the event is taken where the transmitter has not reached the end of the last stop
bit is the model's choice (entry 1). So is that a RELEASED line becomes BUSY with it (entry 16). -/
def Obligations.CompletionStartsDeadline : Prop :=
  ∀ (p : Port) (s : State) (e : QueueEntry) (rest : List QueueEntry),
    (s.scheduler p).phase = .onLine → (s.scheduler p).queue = e :: rest →
    (s.port p).receiver = .echo (s.pool.descriptor e.desc).length → ExchangesSound s →
    (e.desc = 0 → s.trunk.pendingFormat = none ∧ s.agent.restartPending = none) →
    (s.port p).counters.txTelegrams ≤ 65535 →
    ∃ t, exec (.attemptCompletion p) s = .next t
      ∧ t.port p = { s.port p with
          receiver := .idle, transmitter := .rest, markSpan := 0, charTail := 0, monitor := (t.port p).monitor,
          counters := { (s.port p).counters with txTelegrams := min 65535 ((s.port p).counters.txTelegrams + 1) },
          scheduler := t.scheduler p }
      ∧ (t.port p).monitor ≠ .released
      ∧ (t.scheduler p).queue = rest ∧ (t.scheduler p).attempts = 0 ∧ (t.scheduler p).abandons = 0
      ∧ (rest = [] → (t.scheduler p).phase = .empty)
      ∧ (rest ≠ [] → (t.scheduler p).phase = .reserved ∨ (t.scheduler p).phase = .headHeld)
      ∧ t.pool = s.pool.dropRef e.desc ∧ t.pool.cells = s.pool.cells
      ∧ (e.desc = 0 → t.pool.descriptor 0 = { s.pool.descriptor 0 with refs := (s.pool.descriptor 0).refs - 1 }
          ∧ t.pool.free = s.pool.free)
      ∧ (s.exchanges.sendingRecord p e.desc = none → t.exchanges = s.exchanges)
      ∧ (∀ r, s.exchanges.sendingRecord p e.desc = some r →
          t.exchanges = { s.exchanges with records := s.exchanges.records.map fun x =>
            if x = r then { r with state := .awaiting, remaining := r.window, request := none } else x })
      ∧ OtherPortsKept p s t ∧ BlocksKept s t

/-- The management reply leaves the trunk queue, by ATTEMPT_COMPLETION or by an abandon, a collision past the retry
limit, by ECHO_MISSING or CHARACTER_REPORT, counted and with TX_ABANDONED. A pending trunk format takes effect, every
field but an overlap depth below the number of open records that target T, which waits while the old depth stays in
force; the next head waits for a release (R106, R111, R152, R153). Of an accepted RESTART: a cold restart leaves the
state of a cold reset with the straps as their pins stand. A warm one posts RESTARTED with detail WARM_COMMAND last,
keeps the notices held and the break state, but that a mark stop bit arms the break, and leaves the rest as a warm
restart does (R25, R74, R92, R113, R116, R187 to R190). With no completion raised, RESTARTED is the one post besides
TX_ABANDONED, the stored characters stay, the transmissions of the branches are cut, an open telegram counts once in
rx_discarded, and a pending overlap depth takes effect on the trunk (R113, R126, R147, R153, R161). These points are the
model's: the event is taken wherever the transmitter stands (entry 1); the pins stand as the last COLD_RESET gave them
(entry 5); completions already raised are decided first (entry 8); a receiver in ECHO is SETTLING in this very step
(entry 11); count reports that wait are kept (entry 17); an overlap depth that waits already is dropped by the format
(entry 31). So are these of a report: it is taken wherever the character receiver stands and sets the level of the line
(entries 1 and 13), a parity bit decides against the error given (entry 19), and the format is that of its start edge
(entry 23). A RELEASED line becomes BUSY with the event, so that the next head waits (entry 16), and the backoff gap is
0 once the reply has left (entry 33). -/
def Obligations.ReplyLeavingRestarts : Prop :=
  (∀ (s : State) (e : QueueEntry) (rest : List QueueEntry),
    (s.scheduler .trunk).phase = .onLine → (s.scheduler .trunk).queue = e :: rest →
    (s.port .trunk).receiver = .echo (s.pool.descriptor 0).length → e.desc = 0 →
    (s.trunk.pendingFormat = none → s.agent.restartPending = some .cold →
      ∃ t, exec (.attemptCompletion .trunk) s = .next t ∧ exec (.coldReset s.straps.maddrPin s.straps.tbaudPin) s = .next t)
    ∧ (s.trunk.pendingFormat = none → s.agent.restartPending = some .warm →
        ∃ t, exec (.attemptCompletion .trunk) s = .next t ∧ RestartedWarm s t
          ∧ t.trunk.breakState = s.trunk.breakState
          ∧ (∃ q : NoticeQueue, t.notices = q.post .restarted none none (some 1) ∧ s.notices.records <+: q.records)
          ∧ (Port.all.all (fun p => (s.port p).completions.isEmpty) = true →
              t.notices = s.notices.post .restarted none none (some 1) ∧ RestartedPlain s t
                ∧ (t.port .trunk).transmitter = .rest
                ∧ ((s.port .trunk).counters.txTelegrams ≤ 65535 → (t.port .trunk).counters = { (s.port .trunk).counters with
                    txTelegrams := min 65535 ((s.port .trunk).counters.txTelegrams + 1) })))
    ∧ (∀ f, s.trunk.pendingFormat = some f → s.agent.restartPending = none →
        s.exchanges.sendingRecord .trunk 0 = none → (∀ q, (s.scheduler q).phase ≠ .headHeld) →
        ∃ t, exec (.attemptCompletion .trunk) s = .next t ∧ FormatInstalled f s t
          ∧ t.trunk.breakState = s.trunk.breakState
          ∧ (t.scheduler .trunk).queue = rest
          ∧ (rest ≠ [] → (t.scheduler .trunk).phase = .reserved ∨ (t.scheduler .trunk).phase = .headHeld)
          ∧ (t.port .trunk).driverEnable = false ∧ (t.port .trunk).receiver = .idle
          ∧ t.pool = s.pool.dropRef 0 ∧ t.exchanges = s.exchanges ∧ t.notices = s.notices ∧ t.routes = s.routes
          ∧ t.agent = s.agent ∧ OtherPortsKept .trunk s t))
  ∧ (∀ (s : State) (e : QueueEntry) (rest : List QueueEntry) (pos : Nat) (c : Instr),
    (s.scheduler .trunk).phase = .onLine → (s.scheduler .trunk).queue = e :: rest → e.desc = 0 →
    (s.port .trunk).receiver = .echo pos → pos < (s.pool.descriptor 0).length → Collision .trunk s e pos c →
    (s.port .trunk).format.retryLimit < (s.scheduler .trunk).attempts + 1 →
    s.exchanges.sendingRecord .trunk 0 = none → (s.port .trunk).counters.collisions ≤ 65535 →
    (s.trunk.pendingFormat = none → s.agent.restartPending = some .cold →
      ∃ t, exec c s = .next t ∧ exec (.coldReset s.straps.maddrPin s.straps.tbaudPin)
          (s.setPort .trunk { s.port .trunk with rxPin := (t.port .trunk).rxPin }) = .next t
        ∧ (c = .echoMissing .trunk → (t.port .trunk).rxPin = (s.port .trunk).rxPin)
        ∧ ∀ v m pb err, c = .characterReport .trunk v m pb err →
            (t.port .trunk).rxPin = (if err = some .framing ∨ err = some .brk then .space else .mark))
    ∧ (s.trunk.pendingFormat = none → s.agent.restartPending = some .warm →
        ∃ t, exec c s = .next t ∧ RestartedWarm s t ∧ CollisionLine .trunk c s t
          ∧ (∃ q : NoticeQueue, t.notices = q.post .restarted none none (some 1)
              ∧ (s.notices.post .txAbandoned (some .trunk) (some e.line) none).records <+: q.records)
          ∧ (Port.all.all (fun p => (s.port p).completions.isEmpty) = true →
              t.notices = (s.notices.post .txAbandoned (some .trunk) (some e.line) none).post .restarted none none (some 1)
                ∧ RestartedPlain s t ∧ (t.port .trunk).transmitter = (s.port .trunk).transmitter.cutShort
                ∧ (t.port .trunk).counters = { (s.port .trunk).counters with
                    collisions := min 65535 ((s.port .trunk).counters.collisions + 1) }))
    ∧ (∀ f, s.trunk.pendingFormat = some f → s.agent.restartPending = none → (∀ q, (s.scheduler q).phase ≠ .headHeld) →
        ∃ t, exec c s = .next t ∧ FormatInstalled f s t ∧ CollisionLine .trunk c s t
          ∧ (t.scheduler .trunk).queue = rest
          ∧ (rest = [] → (t.scheduler .trunk).phase = .empty)
          ∧ (rest ≠ [] → (t.scheduler .trunk).phase = .reserved ∨ (t.scheduler .trunk).phase = .headHeld)
          ∧ (t.scheduler .trunk).attempts = 0 ∧ (t.scheduler .trunk).abandons = min 15 ((s.scheduler .trunk).abandons + 1)
          ∧ (t.port .trunk).transmitter = (s.port .trunk).transmitter.cutShort ∧ (t.port .trunk).admin = (s.port .trunk).admin
          ∧ (t.port .trunk).counters = { (s.port .trunk).counters with
              collisions := min 65535 ((s.port .trunk).counters.collisions + 1) }
          ∧ t.pool = s.pool.dropRef 0 ∧ t.exchanges = s.exchanges
          ∧ t.notices = s.notices.post .txAbandoned (some .trunk) (some e.line) none
          ∧ t.routes = s.routes ∧ t.agent = s.agent ∧ OtherPortsKept .trunk s t))

/-- DRIVER_ENABLE_RELEASE at the end of a cut attempt: the driver is released, ECHO becomes IDLE and any other receiver
stays, and the mark span starts again; no queue, counter, record or notice changes (R104, R115, R125, R147). That the
event is taken at any bit and tick of the cut character is the model's choice (entry 1). So is that a RELEASED line
becomes BUSY with it (entry 16). -/
def Obligations.DriverReleaseAfterCut : Prop :=
  ∀ (p : Port) (s : State) (f : FormatRecord) (i bit tick : Nat) (ls : List Level),
    (s.port p).transmitter = .sending f i ls bit tick true →
    ∃ t, exec (.driverEnableRelease p) s = .next t
      ∧ t = s.setPort p { s.port p with
          transmitter := .rest, markSpan := 0, charTail := 0, monitor := (t.port p).monitor,
          receiver := (t.port p).receiver }
      ∧ (t.port p).driverEnable = false ∧ (t.port p).txPin = .mark ∧ (t.port p).monitor ≠ .released
      ∧ (∀ k, (s.port p).receiver = .echo k → (t.port p).receiver = .idle)
      ∧ ((∀ k, (s.port p).receiver ≠ .echo k) → (t.port p).receiver = (s.port p).receiver)

/-! ### Admission -/

/-- A lookup is answered from the active bank: LIVE with the key's entry and the bank, RETIRED by a RETIRED one, a miss
without an entry (R14, R19). TELEGRAM_COMPLETION of an undamaged telegram that hits a LIVE entry with one destination,
which takes it: the destination's queue gets one entry at its tail with the effective egress address and the entry's
reply as exchange request, the descriptor is HELD with one reference, rx_telegrams rises and rx_discarded does not, one
count report is sent, no notice is posted, and every stored character is kept (R27, R29, R41, R43, R44, R45, R46). A hit
on an entry with any number of destinations and no reply is offered to each: the ones that take it get one entry each
and the descriptor one reference for each, each one left out posts DEST_OMITTED with its reason, in ascending port
number, and with none that takes it the telegram is discarded, counted, and sends no report (R29, R41, R43, R45, R46). A
miss under PASS_TO_TRUNK on a branch is queued on the trunk under its own address without exchange request or report;
where the trunk queue is full it is discarded with DEST_OMITTED, and with the management address it is discarded without
notice (R40, R42, R45). A hit whose one destination leaves it out, the entry with a reply or without, is discarded with
that one DEST_OMITTED: no queue entry, no exchange and no count report (R44, R45). That a count report names the
physical bank is entry 27. -/
def Obligations.LiveHitIsQueued : Prop :=
  (∀ (r : RouteUnit) (p : Port) (a : Chr) (es : List RouteEntry),
      es = (if r.active = .first then r.first else r.second) →
      ((∀ x ∈ es, ¬(x.arrival = p ∧ x.address = a)) → r.lookup p a = .miss)
      ∧ (∀ x ∈ es, x.arrival = p → x.address = a → (∀ y ∈ es, y.arrival = p → y.address = a → y = x) →
          r.lookup p a = if x.retired then .retired else .live x r.active))
  ∧ (∀ (p dest : Port) (s : State) (c : Completion) (rest : List Completion) (d : DescNo) (x : RouteEntry) (b : BankId)
      (why : OmitReason),
      (s.port p).completions = c :: rest → c.desc = some d → c.damage = none →
      ¬(p = .trunk ∧ c.address = s.mgmtAddress) → (∀ r, s.exchanges.find p c.address = some r → r.state ≠ .answering) →
      s.agent.forwarding = true → s.routes.lookup p c.address = .live x b → x.destinationList = [dest] →
      s.filter dest (x.egress.getD c.address) c.wide = some why →
      (s.port p).counters.rxTelegrams ≤ 65535 → (s.port p).counters.rxDiscarded ≤ 65535 →
      ∃ t, exec (.telegramCompletion p) s = .next t
        ∧ t = { s.setPort p { s.port p with
                  completions := rest,
                  counters := { (s.port p).counters with
                    rxTelegrams := min 65535 ((s.port p).counters.rxTelegrams + 1)
                    rxDiscarded := min 65535 ((s.port p).counters.rxDiscarded + 1) } } with
                pool := s.pool.giveUp d
                notices := s.notices.post .destOmitted (some dest) (some (x.egress.getD c.address))
                  (some (match why with | .portDown => 1 | .width => 2 | .queueFull => 3)) })
  ∧ (∀ (p dest : Port) (s : State) (c : Completion) (rest : List Completion) (d : DescNo) (x : RouteEntry) (b : BankId),
      (s.port p).completions = c :: rest → c.desc = some d → c.damage = none → d ≠ 0 →
      ¬(p = .trunk ∧ c.address = s.mgmtAddress) → (∀ r, s.exchanges.find p c.address = some r → r.state ≠ .answering) →
      s.agent.forwarding = true → s.routes.lookup p c.address = .live x b → x.destinationList = [dest] → dest ≠ p →
      s.filter dest (x.egress.getD c.address) c.wide = none →
      (s.pool.descriptor d).refs = 1 → (s.port p).counters.rxTelegrams ≤ 65535 →
      ∃ t, exec (.telegramCompletion p) s = .next t
        ∧ (t.scheduler dest).queue = (s.scheduler dest).queue ++
            [⟨d, x.egress.getD c.address, x.reply.map fun y => ⟨p, c.address, y.window, y.standIn⟩⟩]
        ∧ t.pool.descriptor d = { s.pool.descriptor d with state := .held, refs := 1 }
        ∧ (∀ k, k ≠ d → t.pool.descriptor k = s.pool.descriptor k)
        ∧ t.pool.free = s.pool.free ∧ t.pool.cells = s.pool.cells
        ∧ t.port p = { s.port p with
            completions := rest,
            counters := { (s.port p).counters with rxTelegrams := min 65535 ((s.port p).counters.rxTelegrams + 1) } }
        ∧ t.routes = { s.routes with countReports := s.routes.countReports ++ [⟨b, p, c.address⟩] }
        ∧ LineKept (s.port dest) (t.port dest)
        ∧ (∀ q, q ≠ p → q ≠ dest → t.port q = s.port q)
        ∧ t.notices = s.notices ∧ t.agent = s.agent ∧ t.trunk = s.trunk
        ∧ ((s.scheduler dest).queue ≠ [] → t.exchanges = s.exchanges))
  ∧ (∀ (p : Port) (s : State) (c : Completion) (rest : List Completion) (d : DescNo) (x : RouteEntry) (b : BankId)
      (line : Chr) (taking : List Port),
      (s.port p).completions = c :: rest → c.desc = some d → c.damage = none → d ≠ 0 →
      ¬(p = .trunk ∧ c.address = s.mgmtAddress) → (∀ r, s.exchanges.find p c.address = some r → r.state ≠ .answering) →
      s.agent.forwarding = true → s.routes.lookup p c.address = .live x b → x.reply = none → p ∉ x.destinationList →
      line = x.egress.getD c.address →
      taking = x.destinationList.filter (fun q => decide (s.filter q line c.wide = none)) →
      (s.pool.descriptor d).refs = 1 → (s.port p).counters.rxTelegrams ≤ 65535 →
      (s.port p).counters.rxDiscarded ≤ 65535 →
      ∃ t, exec (.telegramCompletion p) s = .next t
        ∧ (∀ q ∈ taking, (t.scheduler q).queue = (s.scheduler q).queue ++ [⟨d, line, none⟩]
            ∧ LineKept (s.port q) (t.port q))
        ∧ (∀ q, q ≠ p → q ∉ taking → t.port q = s.port q)
        ∧ t.port p = { s.port p with
            completions := rest,
            counters := { (s.port p).counters with
              rxTelegrams := min 65535 ((s.port p).counters.rxTelegrams + 1)
              rxDiscarded := if taking = [] then min 65535 ((s.port p).counters.rxDiscarded + 1)
                             else (s.port p).counters.rxDiscarded } }
        ∧ t.notices = x.destinationList.foldl (fun n q =>
            match s.filter q line c.wide with
            | some why => n.post .destOmitted (some q) (some line) (some why.code)
            | none => n) s.notices
        ∧ (taking ≠ [] →
            t.pool.descriptor d = { s.pool.descriptor d with state := .held, refs := taking.length }
              ∧ (∀ k, k ≠ d → t.pool.descriptor k = s.pool.descriptor k)
              ∧ t.pool.free = s.pool.free ∧ t.pool.cells = s.pool.cells
              ∧ t.routes = { s.routes with countReports := s.routes.countReports ++ [⟨b, p, c.address⟩] })
        ∧ (taking = [] → t.pool = s.pool.giveUp d ∧ t.routes = s.routes)
        ∧ t.exchanges = s.exchanges ∧ t.agent = s.agent ∧ t.trunk = s.trunk)
  ∧ (∀ (p : Port) (s : State) (c : Completion) (rest : List Completion) (d : DescNo),
      (s.port p).completions = c :: rest → c.desc = some d → c.damage = none → d ≠ 0 → p ≠ .trunk →
      (∀ r, s.exchanges.find p c.address = some r → r.state ≠ .answering) → s.agent.forwarding = true →
      s.routes.lookup p c.address = .miss → (s.port p).format.miss = .passToTrunk → TrunkInService s →
      (s.pool.descriptor d).refs = 1 → (s.port p).counters.rxTelegrams ≤ 65535 →
      (s.port p).counters.rxDiscarded ≤ 65535 →
      ∃ t, exec (.telegramCompletion p) s = .next t
        ∧ (c.address ≠ s.mgmtAddress →
            ((s.scheduler .trunk).queue.filter fun y => decide (y.desc ≠ 0)).length < 15 →
            (t.scheduler .trunk).queue = (s.scheduler .trunk).queue ++ [⟨d, c.address, none⟩]
              ∧ LineKept (s.port .trunk) (t.port .trunk)
              ∧ t.pool.descriptor d = { s.pool.descriptor d with state := .held, refs := 1 }
              ∧ (∀ k, k ≠ d → t.pool.descriptor k = s.pool.descriptor k)
              ∧ t.pool.free = s.pool.free ∧ t.pool.cells = s.pool.cells
              ∧ t.port p = { s.port p with
                  completions := rest,
                  counters := { (s.port p).counters with
                    rxTelegrams := min 65535 ((s.port p).counters.rxTelegrams + 1) } }
              ∧ (∀ q, q ≠ p → q ≠ .trunk → t.port q = s.port q)
              ∧ t.exchanges = s.exchanges ∧ BlocksKept s t)
        ∧ (c.address = s.mgmtAddress
              ∨ 15 ≤ ((s.scheduler .trunk).queue.filter fun y => decide (y.desc ≠ 0)).length →
            t = { s.setPort p { s.port p with
                    completions := rest,
                    counters := { (s.port p).counters with
                      rxTelegrams := min 65535 ((s.port p).counters.rxTelegrams + 1)
                      rxDiscarded := min 65535 ((s.port p).counters.rxDiscarded + 1) } } with
                  pool := s.pool.giveUp d
                  notices := if c.address = s.mgmtAddress then s.notices
                             else s.notices.post .destOmitted (some .trunk) (some c.address) (some 3) }))

/-- A telegram that is offered to no port, by TELEGRAM_COMPLETION. Undamaged: forwarding OFF, a hit on a RETIRED entry
of the active bank, or a miss there under DROP (without notice) or DROP_NOTE (ROUTE_MISS); damaged: before any other
case is looked at, with the notice of Table 2-3; without a descriptor: without a notice of its own (R31). It counts in
both receive counters and its storage goes; no exchange, queue or lookup state changes. A damaged telegram, or one
without a descriptor, closes the ANSWERING exchange of its pair DAMAGED, with EXCHANGE_CLOSED and, where stand-in is ON
and its offer is taken, its stand-in reply, and on the pair of a LAPSED record with late hold it posts LATE_REPLY and
frees the record; on the pair of a SENDING, AWAITING or LAPSED record without late hold the record stays, and damage
LATE, and no other, posts LATE_REPLY (Table 3-6; R61, R65, R69, R70). These points are the model's: the Exchange Monitor
posts first (entry 4); a RELEASED line is not free for a stand-in reply's head while its port's driver finishes a cut
character, and the start leaves the line monitor as it stands (entry 16); its backoff gap stays (entry 33); and a
completion without a descriptor, which that start may raise, has its wide flag clear (entry 34). An undamaged one to the
management address on the trunk goes to the Management Agent with its descriptor, whatever forwarding and the route
table say, and counts in rx_telegrams alone (R27, R30, R31, R32, R36, R38, R39, R45). -/
def Obligations.TelegramsNotForwarded : Prop :=
  (∀ (r : RouteUnit) (p : Port) (a : Chr) (es : List RouteEntry),
      es = (if r.active = .first then r.first else r.second) →
      (r.lookup p a = .miss ↔ ∀ x ∈ es, ¬(x.arrival = p ∧ x.address = a))
      ∧ (r.lookup p a = .retired → ∃ x ∈ es, x.arrival = p ∧ x.address = a ∧ x.retired = true))
  ∧ (∀ (p : Port) (s : State) (c : Completion) (rest : List Completion) (d : DescNo),
      (s.port p).completions = c :: rest → c.desc = some d → c.damage = none →
      ¬(p = .trunk ∧ c.address = s.mgmtAddress) → (∀ r, s.exchanges.find p c.address = some r → r.state ≠ .answering) →
      (s.agent.forwarding = false ∨ s.routes.lookup p c.address = .retired
        ∨ s.routes.lookup p c.address = .miss ∧ (s.port p).format.miss ≠ .passToTrunk) →
      (s.port p).counters.rxTelegrams ≤ 65535 → (s.port p).counters.rxDiscarded ≤ 65535 →
      ∃ t, exec (.telegramCompletion p) s = .next t
        ∧ t = { s.setPort p { s.port p with
                  completions := rest,
                  counters := { (s.port p).counters with
                    rxTelegrams := min 65535 ((s.port p).counters.rxTelegrams + 1)
                    rxDiscarded := min 65535 ((s.port p).counters.rxDiscarded + 1) } } with
                pool := s.pool.giveUp d
                notices := if s.agent.forwarding = true ∧ s.routes.lookup p c.address = .miss
                              ∧ (s.port p).format.miss = .dropNote
                           then s.notices.post .routeMiss (some p) (some c.address) none else s.notices })
  ∧ (∀ (p : Port) (s : State) (c : Completion) (rest : List Completion) (d : DescNo) (dm : Damage),
      (s.port p).completions = c :: rest → c.desc = some d → c.damage = some dm →
      s.exchanges.find p c.address = none →
      (s.port p).counters.rxTelegrams ≤ 65535 → (s.port p).counters.rxDiscarded ≤ 65535 →
      ∃ t, exec (.telegramCompletion p) s = .next t
        ∧ t = { s.setPort p { s.port p with
                  completions := rest,
                  counters := { (s.port p).counters with
                    rxTelegrams := min 65535 ((s.port p).counters.rxTelegrams + 1)
                    rxDiscarded := min 65535 ((s.port p).counters.rxDiscarded + 1) } } with
                pool := s.pool.giveUp d
                notices := match dm with
                  | .parity => s.notices.post .lineError (some p) (some c.address) (some 1)
                  | .framing => s.notices.post .lineError (some p) (some c.address) (some 2)
                  | .brk => s.notices.post .lineError (some p) (some c.address) (some 3)
                  | .overlength => s.notices.post .overlength (some p) (some c.address) none
                  | .shortfall => s.notices.post .poolExhausted (some p) (some c.address) none
                  | .late => s.notices.post .lateReply (some p) (some c.address) none })
  ∧ (∀ (s : State) (c : Completion) (rest : List Completion) (d : DescNo),
      (s.port .trunk).completions = c :: rest → c.desc = some d → c.damage = none → c.address = s.mgmtAddress →
      (s.port .trunk).counters.rxTelegrams ≤ 65535 →
      ∃ t, exec (.telegramCompletion .trunk) s = .next t
        ∧ t = { s.setPort .trunk { s.port .trunk with
                  completions := rest,
                  counters := { (s.port .trunk).counters with
                    rxTelegrams := min 65535 ((s.port .trunk).counters.rxTelegrams + 1) } } with
                agent := { s.agent with requests := s.agent.requests ++ [d] } })
  ∧ (∀ (p : Port) (s : State) (c : Completion) (rest : List Completion),
      (s.port p).completions = c :: rest → c.desc = none → c.damage = none → s.exchanges.find p c.address = none →
      (s.port p).counters.rxTelegrams ≤ 65535 → (s.port p).counters.rxDiscarded ≤ 65535 →
      exec (.telegramCompletion p) s = .next (s.setPort p { s.port p with
        completions := rest,
        counters := { (s.port p).counters with
          rxTelegrams := min 65535 ((s.port p).counters.rxTelegrams + 1)
          rxDiscarded := min 65535 ((s.port p).counters.rxDiscarded + 1) } }))
  ∧ (∀ (p : Port) (s : State) (c : Completion) (rest : List Completion) (r : ExchangeRecord),
      (s.port p).completions = c :: rest → (c.desc = none ∨ c.damage ≠ none) → s.exchanges.find p c.address = some r →
      ExchangesSound s → (∀ q, (s.scheduler q).phase ≠ .headHeld) → s.trunk.pendingDepth = none →
      (s.port p).counters.rxTelegrams ≤ 65535 → (s.port p).counters.rxDiscarded ≤ 65535 →
      ∃ t, exec (.telegramCompletion p) s = .next t
        ∧ (r.state = .answering ∧ r.standIn = false ∨ r.state = .lapsed ∧ r.lateHold = true →
            t = { s.setPort p { s.port p with
                    completions := rest,
                    counters := { (s.port p).counters with
                      rxTelegrams := min 65535 ((s.port p).counters.rxTelegrams + 1)
                      rxDiscarded := min 65535 ((s.port p).counters.rxDiscarded + 1) } } with
                  pool := (match c.desc with | some d => s.pool.giveUp d | none => s.pool)
                  exchanges := { s.exchanges with records := s.exchanges.records.filter fun x => decide (x ≠ r) }
                  notices := c.damagePost p
                    (if r.state = .answering then s.notices.post .exchangeClosed (some p) (some c.address) (some 2)
                     else s.notices.post .lateReply (some p) (some c.address) none) })
        ∧ (r.state = .sending ∨ r.state = .awaiting ∨ r.state = .lapsed ∧ r.lateHold = false →
            t = { s.setPort p { s.port p with
                    completions := rest,
                    counters := { (s.port p).counters with
                      rxTelegrams := min 65535 ((s.port p).counters.rxTelegrams + 1)
                      rxDiscarded := min 65535 ((s.port p).counters.rxDiscarded + 1) } } with
                  pool := (match c.desc with | some d => s.pool.giveUp d | none => s.pool)
                  notices := c.damagePost p
                    (if c.damage = some .late then s.notices.post .lateReply (some p) (some c.address) none
                     else s.notices) })
        ∧ (∀ d k, r.state = .answering → r.standIn = true → r.origin ≠ p → CellsCanonical s →
            s.agent.settings.inRanges = true → c.desc ≠ some d → StandInTaken s r .damaged d k →
            StandInQueued s t r .damaged d k
              ∧ (t.port p).completions = rest
              ∧ (t.port p).counters = { (s.port p).counters with
                  rxTelegrams := min 65535 ((s.port p).counters.rxTelegrams + 1)
                  rxDiscarded := min 65535 ((s.port p).counters.rxDiscarded + 1) }
              ∧ t.exchanges = { s.exchanges with records := s.exchanges.records.filter fun x => decide (x ≠ r) }
              ∧ t.notices =
                  c.damagePost p (s.notices.post .exchangeClosed (some p) (some c.address) (some 2))
              ∧ t.routes = s.routes ∧ t.agent = s.agent))

/-- The undamaged completion on the pair of an ANSWERING record closes it ANSWERED, without notice, and the reply is
queued toward the record's origin under the origin address, forwarding ON or OFF, no lookup and no count report (R33,
R34, R43, R60). Where the origin port leaves it out, DEST_OMITTED with the origin port, the origin address and the
reason is the one post, the reply counts in both receive counters and its storage goes, and the exchange is closed
ANSWERED just so, without EXCHANGE_CLOSED and without a stand-in reply (R34, R45). -/
def Obligations.ReplyIsCarriedToOrigin : Prop :=
  (∀ (p : Port) (s : State) (c : Completion) (rest : List Completion) (d : DescNo) (r : ExchangeRecord),
      (s.port p).completions = c :: rest → c.desc = some d → c.damage = none → d ≠ 0 →
      ¬(p = .trunk ∧ c.address = s.mgmtAddress) → s.exchanges.find p c.address = some r → r.state = .answering →
      ExchangesSound s → s.filter r.origin r.originAddress c.wide = none → r.origin ≠ p →
      (s.pool.descriptor d).refs = 1 → (s.port p).counters.rxTelegrams ≤ 65535 →
      (∀ q, (s.scheduler q).phase ≠ .headHeld) → s.trunk.pendingDepth = none →
      ∃ t, exec (.telegramCompletion p) s = .next t
        ∧ t.exchanges = { s.exchanges with records := s.exchanges.records.filter (fun x => decide (x ≠ r)) }
        ∧ (t.scheduler r.origin).queue = (s.scheduler r.origin).queue ++ [⟨d, r.originAddress, none⟩]
        ∧ LineKept (s.port r.origin) (t.port r.origin)
        ∧ ((s.scheduler r.origin).queue ≠ [] →
            t.port r.origin = { s.port r.origin with scheduler := { s.scheduler r.origin with
              queue := (s.scheduler r.origin).queue ++ [⟨d, r.originAddress, none⟩] } })
        ∧ t.pool.descriptor d = { s.pool.descriptor d with state := .held, refs := 1 }
        ∧ (∀ k, k ≠ d → t.pool.descriptor k = s.pool.descriptor k) ∧ t.pool.cells = s.pool.cells
        ∧ t.port p = { s.port p with
            completions := rest,
            counters := { (s.port p).counters with rxTelegrams := min 65535 ((s.port p).counters.rxTelegrams + 1) } }
        ∧ (∀ q, q ≠ p → q ≠ r.origin → t.port q = s.port q)
        ∧ t.routes = s.routes ∧ t.notices = s.notices ∧ t.agent = s.agent ∧ t.trunk = s.trunk)
  ∧ (∀ (p : Port) (s : State) (c : Completion) (rest : List Completion) (d : DescNo) (r : ExchangeRecord)
      (why : OmitReason),
      (s.port p).completions = c :: rest → c.desc = some d → c.damage = none →
      ¬(p = .trunk ∧ c.address = s.mgmtAddress) → s.exchanges.find p c.address = some r → r.state = .answering →
      ExchangesSound s → s.filter r.origin r.originAddress c.wide = some why →
      (s.port p).counters.rxTelegrams ≤ 65535 → (s.port p).counters.rxDiscarded ≤ 65535 →
      (∀ q, (s.scheduler q).phase ≠ .headHeld) → s.trunk.pendingDepth = none →
      ∃ t, exec (.telegramCompletion p) s = .next t
        ∧ t = { s.setPort p { s.port p with
                  completions := rest,
                  counters := { (s.port p).counters with
                    rxTelegrams := min 65535 ((s.port p).counters.rxTelegrams + 1)
                    rxDiscarded := min 65535 ((s.port p).counters.rxDiscarded + 1) } } with
                pool := s.pool.giveUp d
                exchanges := { s.exchanges with records := s.exchanges.records.filter (fun x => decide (x ≠ r)) }
                notices := s.notices.post .destOmitted (some r.origin) (some r.originAddress)
                  (some (match why with | .portDown => 1 | .width => 2 | .queueFull => 3)) }
        ∧ ((s.pool.descriptor d).refs = 1 →
            (t.pool.descriptor d).state = .free ∧ ∀ k, k ≠ d → t.pool.descriptor k = s.pool.descriptor k))

/-- The destination filter gives the first reason that applies: PORT_DOWN, WIDTH, QUEUE_FULL, a branch queue being full
at 16 entries and the trunk queue at 15 that do not name descriptor 0; a destination left out posts DEST_OMITTED and
gets nothing (R41, R42). -/
def Obligations.FilterReasonsInOrder : Prop :=
  ∀ (s : State) (p : Port) (e : QueueEntry) (wide : Bool),
    ((s.port p).admin ≠ .active →
      s.offerTo p e wide = (s.post .destOmitted (some p) (some e.line) (some 1), false))
    ∧ ((s.port p).admin = .active → (s.port p).format.width = .seven → (0x7F < e.line.toNat ∨ wide = true) →
      s.offerTo p e wide = (s.post .destOmitted (some p) (some e.line) (some 2), false))
    ∧ ((s.port p).admin = .active → ((s.port p).format.width = .eight ∨ e.line.toNat ≤ 0x7F ∧ wide = false) →
      (p = .trunk ∧ 15 ≤ ((s.scheduler p).queue.filter fun x => decide (x.desc ≠ 0)).length
        ∨ p ≠ .trunk ∧ 16 ≤ (s.scheduler p).queue.length) →
      s.offerTo p e wide = (s.post .destOmitted (some p) (some e.line) (some 3), false))
    ∧ ((s.port p).admin = .active → ((s.port p).format.width = .eight ∨ e.line.toNat ≤ 0x7F ∧ wide = false) →
      (p = .trunk ∧ ((s.scheduler p).queue.filter fun x => decide (x.desc ≠ 0)).length < 15
        ∨ p ≠ .trunk ∧ (s.scheduler p).queue.length < 16) →
      (s.offerTo p e wide).2 = true ∧ ((s.offerTo p e wide).1.scheduler p).queue = (s.scheduler p).queue ++ [e]
        ∧ ((s.offerTo p e wide).1.pool.descriptor e.desc).refs = (s.pool.descriptor e.desc).refs + 1)

/-! ### The route table -/

/-- COUNT_REPORT for the active bank: a LIVE entry's count goes down by one; from 1 it retires the entry with
ALLOWANCE_RETIRED or sets the reload value with ALLOWANCE_RELOADED, by its mode. A RETIRED entry, an entry without
allowance, and a report that names the other bank change nothing. No other entry and no other state changes (R20, R21,
R22). That a report names the physical bank and takes away the first waiting report that is the same is the model's
choice (entry 27). -/
def Obligations.CountReportSpendsAllowance : Prop :=
  ∀ (b : BankId) (p : Port) (a : Chr) (s : State) (pre post : List RouteEntry) (x : RouteEntry) (al : Allowance),
    s.routes.activeBank = pre ++ x :: post → x.arrival = p → x.address = a → BanksSound s →
    ∃ t, exec (.countReport b p a) s = .next t
      ∧ t = { s with
          notices := t.notices
          routes := { (s.routes.setActive (t.routes.activeBank)) with
            countReports := s.routes.countReports.erase ⟨b, p, a⟩ } }
      ∧ (b ≠ s.routes.active ∨ x.allowance = none ∨ x.retired = true →
          t.routes.activeBank = pre ++ x :: post ∧ t.notices = s.notices)
      ∧ (b = s.routes.active → x.allowance = some al → x.retired = false → 1 < al.count →
          t.routes.activeBank = pre ++ { x with allowance := some { al with count := al.count - 1 } } :: post
            ∧ t.notices = s.notices)
      ∧ (b = s.routes.active → x.allowance = some al → x.retired = false → al.count = 1 → al.mode = .retire →
          t.routes.activeBank = pre ++ { x with allowance := some { al with count := 0 }, retired := true } :: post
            ∧ t.notices = s.notices.post .allowanceRetired (some p) (some a) none)
      ∧ (b = s.routes.active → x.allowance = some al → x.retired = false → al.count = 1 → al.mode = .reload →
          t.routes.activeBank = pre ++ { x with allowance := some { al with count := al.reload } } :: post
            ∧ t.notices = s.notices.post .allowanceReloaded (some p) (some a) (some (BitVec.ofNat 16 al.reload)))

/-- The two checks of validation in their order: WIDTH_KEY where the arrival port is 7-bit and the key address above
7Fh, else WIDTH_EGRESS where a destination is 7-bit and the effective egress address above 7Fh (R10). VALIDATION_STEP:
an entry that passes moves the validation position on. One that fails ends the commit: the shadow is EDITED, roles and
banks are as they were, and the TABLE_COMMIT is answered CONFLICT with the key and the reason. After the last entry the
banks swap, the shadow is RESEEDING from the start, and the commit is answered OK with the number of active entries
(R11, R12). Three points are the model's: the reply carries the sequence number that the executing command holds (entry
18), one entry a step is its pace (entry 14), and the validation position stays at a failing entry (entry 30). -/
def Obligations.ValidationChecksShadow : Prop :=
  (∀ (e : RouteEntry) (w : PerPort DataWidth),
      (e.conflict w = some .widthKey ↔ w.get e.arrival = .seven ∧ 0x7F < e.address.toNat)
      ∧ (e.conflict w = some .widthEgress ↔
          ¬(w.get e.arrival = .seven ∧ 0x7F < e.address.toNat)
            ∧ 0x7F < (e.egress.getD e.address).toNat ∧ ∃ q, e.destinations.get q = true ∧ w.get q = .seven))
  ∧ (∀ (s : State) (x : RouteEntry) (id : RequestId),
      CellsCanonical s → s.routes.shadow = .validating → s.routes.shadowBank[s.routes.validatePos]? = some x →
      s.agent.executing = some id → id.code = 0x0B →
      ∃ t, exec .validationStep s = .next t
        ∧ (∀ why, x.conflict s.widths = some why →
            Replied { s with routes := { s.routes with shadow := .edited } } t id
              ⟨.conflict, [x.arrival.toChr, x.address, why.code]⟩)
        ∧ (x.conflict s.widths = none → s.routes.validatePos + 1 < s.routes.shadowBank.length →
            t = { s with routes := { s.routes with validatePos := s.routes.validatePos + 1 } })
        ∧ (x.conflict s.widths = none → s.routes.shadowBank.length ≤ s.routes.validatePos + 1 →
            t.routes.activeBank = s.routes.shadowBank ∧ t.routes.active ≠ s.routes.active
              ∧ t.routes.shadow = .reseeding ∧ t.routes.shadowBank = [] ∧ t.routes.reseedPos = 0
              ∧ t.routes.countReports = s.routes.countReports
              ∧ Replied { s with routes := t.routes } t id ⟨.ok, [BitVec.ofNat 8 s.routes.shadowBank.length]⟩))

/-- RESEED_COPY: the next active entry, as it stands, becomes the last shadow entry. With the last one the shadow is
CLEAN and a TABLE_DISCARD in execution is answered OK with the number of shadow entries; the active bank and the roles
stay (R15, R16, R17). That the reply carries the sequence number that the executing command holds is entry 18, and one
entry a step entry 14. -/
def Obligations.ReseedCopiesActive : Prop :=
  ∀ (s : State) (x : RouteEntry),
    CellsCanonical s → s.routes.shadow = .reseeding → s.routes.activeBank[s.routes.reseedPos]? = some x →
    ∃ t, exec .reseedCopy s = .next t
      ∧ t.routes.shadowBank = s.routes.shadowBank ++ [x] ∧ t.routes.activeBank = s.routes.activeBank
      ∧ t.routes.active = s.routes.active
      ∧ (s.routes.reseedPos + 1 < s.routes.activeBank.length →
          t = { s with routes := { (s.routes.setShadow (s.routes.shadowBank ++ [x])) with
                  reseedPos := s.routes.reseedPos + 1 } })
      ∧ (s.routes.activeBank.length ≤ s.routes.reseedPos + 1 → s.agent.executing = none →
          t.routes.shadow = .clean ∧ t = { s with routes := t.routes })
      ∧ (∀ id, s.routes.activeBank.length ≤ s.routes.reseedPos + 1 → s.agent.executing = some id → id.code = 0x0C →
          t.routes.shadow = .clean
            ∧ Replied { s with routes := t.routes } t id ⟨.ok, [BitVec.ofNat 8 (s.routes.shadowBank.length + 1)]⟩)

/-! ### Exchanges -/

/-- DEADLINE_EXPIRY of an AWAITING record: EXCHANGE_CLOSED with detail NO_ANSWER, and the record lingers in LAPSED for
its whole window without late hold; every other record, queue and stored character is kept. Where its stand-in is ON and
no descriptor or no cell is free, STANDIN_LOST with that reason follows. LINGER_EXPIRY of a LAPSED record without late
hold frees it and nothing else (R51, R57, R65, R66, R67, R70). A pending overlap depth of the trunk takes effect in the
step in which a record that targets T leaves AWAITING and the open ones are no more than it, and waits on otherwise
(R153). A head in HEAD_HELD on any port is decided again in the step of the deadline, with the record LAPSED: still held
it stays; no longer held it starts on a free line, its record opened first where it carries an exchange request, and is
RESERVED on another (R98, R99, R100). These points are the model's: an expiry is taken whatever time the record has
remaining (entry 1); one that names a record in another state, a DEADLINE_EXPIRY of a record that is not AWAITING or a
LINGER_EXPIRY of one that is not LAPSED or has late hold, or that names no record, changes nothing (entry 2); a RELEASED
line is not free while its port's driver finishes a cut character, and the line monitor still shows RELEASED after the
start of an attempt (entry 16); the signal and a pending depth are taken in the model's order (entry 4); and the backoff
gap outside BACKOFF stays (entry 33). -/
def Obligations.DeadlineAndLinger : Prop :=
  (∀ (p : Port) (line : Chr) (s : State) (r : ExchangeRecord),
      s.exchanges.find p line = some r → ExchangesSound s →
      (∀ q, (s.scheduler q).phase ≠ .headHeld) → s.trunk.pendingDepth = none →
      (∃ t, exec (.deadlineExpiry p line) s = .next t
        ∧ (r.state = .awaiting → (r.standIn = true → s.pool.freeDescriptor? = none ∨ s.pool.free = []) →
            t = { s with
              notices :=
                if r.standIn then
                  (s.notices.post .exchangeClosed (some p) (some line) (some 1)).post .standinLost (some r.origin)
                    (some r.originAddress) (some (if s.pool.freeDescriptor? = none then 4 else 5))
                else s.notices.post .exchangeClosed (some p) (some line) (some 1)
              exchanges := { s.exchanges with records := s.exchanges.records.map fun x =>
                if x = r then { r with state := .lapsed, remaining := r.window, lateHold := false } else x } }))
      ∧ (∃ t, exec (.lingerExpiry p line) s = .next t
        ∧ (r.state = .lapsed → r.lateHold = false →
            t = { s with exchanges := { s.exchanges with
                    records := s.exchanges.records.filter fun x => decide (x ≠ r) } })
        ∧ (r.state ≠ .lapsed ∨ r.lateHold = true → t = s)))
  ∧ (∀ (line : Chr) (s : State) (r : ExchangeRecord) (d : Nat),
      s.exchanges.find .trunk line = some r → r.state = .awaiting → r.standIn = false → ExchangesSound s →
      (∀ q, (s.scheduler q).phase ≠ .headHeld) → s.trunk.pendingDepth = some d →
      ∃ t, exec (.deadlineExpiry .trunk line) s = .next t
        ∧ t = { s.setPort .trunk { s.port .trunk with format := (t.port .trunk).format } with
            trunk := t.trunk
            notices := s.notices.post .exchangeClosed (some .trunk) (some line) (some 1)
            exchanges := { s.exchanges with records := s.exchanges.records.map fun x =>
              if x = r then { r with state := .lapsed, remaining := r.window, lateHold := false } else x } }
        ∧ (s.exchanges.openCount .trunk ≤ d + 1 →
            (t.port .trunk).format = { (s.port .trunk).format with overlap := d }
              ∧ t.trunk = { s.trunk with pendingDepth := none })
        ∧ (d + 1 < s.exchanges.openCount .trunk →
            (t.port .trunk).format = (s.port .trunk).format ∧ t.trunk = s.trunk))
  ∧ (∀ (p h : Port) (line : Chr) (s u : State) (r : ExchangeRecord) (e : QueueEntry) (rest : List QueueEntry),
      s.exchanges.find p line = some r → r.state = .awaiting → r.standIn = false → ExchangesSound s →
      s.trunk.pendingDepth = none → (∀ q, (s.scheduler q).phase = .headHeld ↔ q = h) →
      (s.scheduler h).queue = e :: rest →
      u = { s with
        notices := s.notices.post .exchangeClosed (some p) (some line) (some 1)
        exchanges := { s.exchanges with records := s.exchanges.records.map fun x =>
          if x = r then { r with state := .lapsed, remaining := r.window, lateHold := false } else x } } →
      ∃ t, exec (.deadlineExpiry p line) s = .next t
        ∧ (u.held h e = true → t = u)
        ∧ (u.held h e = false → ((s.port h).monitor ≠ .released ∨ (s.port h).driverEnable = true) →
            t = u.setPort h { s.port h with scheduler := { s.scheduler h with phase := .reserved } })
        ∧ (u.held h e = false → (s.port h).monitor = .released → (s.port h).driverEnable = false →
            (s.port h).receiver = .idle ∨ (s.port h).receiver = .settling →
            (∀ m, (e.request = none ∧ m = u.exchanges
                ∨ ∃ q, e.request = some q ∧ u.exchanges.opening (s.port h).format.overlap h e q = some m) →
              t = { u.setPort h { s.port h with
                      receiver := .echo 0,
                      transmitter := .sending (s.port h).format 0 ((s.port h).format.levels e.line true) 0 0 false,
                      scheduler := { s.scheduler h with phase := .onLine } } with
                    exchanges := m })))
  ∧ (∀ (p : Port) (line : Chr) (s : State), s.exchanges.find p line = none →
      exec (.deadlineExpiry p line) s = .next s ∧ exec (.lingerExpiry p line) s = .next s)
  ∧ (∀ (p : Port) (line : Chr) (s : State) (r : ExchangeRecord), s.exchanges.find p line = some r →
      (r.state ≠ .awaiting → exec (.deadlineExpiry p line) s = .next s)
      ∧ (r.state ≠ .lapsed ∨ r.lateHold = true → exec (.lingerExpiry p line) s = .next s))

/-- The characters of a stand-in reply (Table 3-8): the origin address first, the outcome's reason code at the reason
position, the template's filler in every other place below the length, and after them nothing, the sum of them modulo
256, or their CRC-16 high character first (R69). DEADLINE_EXPIRY of an AWAITING record with stand-in ON, a descriptor
`d` and a cell free and the origin port taking the offer: the stand-in reply of the settings record is stored, HELD with
one reference, and queued toward the origin under the origin address, into an empty queue as the head, which is decided
at once; EXCHANGE_CLOSED is the one post (R57, R68, R69, R70, R95). Where the origin port leaves the offer out,
STANDIN_LOST with the origin port and address and the filter's reason follows EXCHANGE_CLOSED, and descriptor and cell
are free again (R70). The replies of the other outcomes are in RetryLimitAbandonsHead, TelegramsNotForwarded and
PurgeReply. These points are the model's: a RELEASED line is not free while its port's driver finishes a cut character,
and the start leaves the line monitor as it stands (entry 16); its backoff gap stays (entry 33); a completion without a
descriptor, which the start may raise, has its wide flag clear (entry 34); and the deadline is taken whatever time the
record has remaining (entry 1). -/
def Obligations.StandInReplyIsQueued : Prop :=
  (∀ (x : Settings) (a : Chr) (o : CloseOutcome) (y : List Chr), x.inRanges = true → y = x.standInReply a o →
      y[0]? = some a
      ∧ y[x.reasonPos]? = some (match o with
          | .noAnswer => x.reasonNoAnswer | .damaged => x.reasonDamaged | .unreachable => x.reasonUnreachable)
      ∧ (∀ k, 1 ≤ k → k < x.length → k ≠ x.reasonPos → y[k]? = some (x.filler.getD k 0))
      ∧ (x.check = .noCheck → y.length = x.length)
      ∧ (x.check = .sum8 → y.length = x.length + 1
          ∧ (y[x.length]?).map BitVec.toNat = some (((y.take x.length).map BitVec.toNat).sum % 256))
      ∧ (x.check = .crc16 → y.length = x.length + 2 ∧ y.drop x.length = twoChars (crc16 (y.take x.length))))
  ∧ (∀ (p : Port) (line : Chr) (s : State) (r : ExchangeRecord) (d : DescNo) (c : CellNo) (cs : List CellNo),
      CellsCanonical s → ExchangesSound s → s.agent.settings.inRanges = true →
      s.exchanges.find p line = some r → r.state = .awaiting → r.standIn = true →
      s.pool.freeDescriptor? = some d → s.pool.free = c :: cs →
      s.filter r.origin r.originAddress
        (((s.agent.settings.standInReply r.originAddress .noAnswer).drop 1).any fun x => decide (0x7F < x.toNat)) = none →
      (∀ q, (s.scheduler q).phase ≠ .headHeld) → s.trunk.pendingDepth = none →
      ∃ t, exec (.deadlineExpiry p line) s = .next t
        ∧ t.pool.telegram d = s.agent.settings.standInReply r.originAddress .noAnswer
        ∧ (t.pool.descriptor d).state = .held ∧ (t.pool.descriptor d).refs = 1 ∧ (t.pool.descriptor d).cells = [c]
        ∧ (t.pool.descriptor d).arrival = p ∧ t.pool.free = cs
        ∧ (∀ k, k ≠ d → t.pool.descriptor k = s.pool.descriptor k) ∧ StoredKept (c.val * 32) 10 s t
        ∧ ((s.scheduler r.origin).queue ≠ [] →
            t.port r.origin = { s.port r.origin with scheduler := { s.scheduler r.origin with
              queue := (s.scheduler r.origin).queue ++ [⟨d, r.originAddress, none⟩] } })
        ∧ ((s.scheduler r.origin).queue = [] → HeadDecided r.origin s t ⟨d, r.originAddress, none⟩)
        ∧ OtherPortsKept r.origin s t
        ∧ t.notices = s.notices.post .exchangeClosed (some p) (some line) (some 1)
        ∧ t.exchanges.records = s.exchanges.records.map (fun x =>
            if x = r then { r with state := .lapsed, remaining := r.window, lateHold := false } else x)
        ∧ t.routes = s.routes ∧ t.agent = s.agent)
  ∧ (∀ (p : Port) (line : Chr) (s : State) (r : ExchangeRecord) (d : DescNo) (c : CellNo) (cs : List CellNo)
      (why : OmitReason),
      CellsCanonical s → ExchangesSound s → s.agent.settings.inRanges = true → s.pool.free.Pairwise (· < ·) →
      s.exchanges.find p line = some r → r.state = .awaiting → r.standIn = true →
      s.pool.freeDescriptor? = some d → s.pool.free = c :: cs →
      s.filter r.origin r.originAddress
        (((s.agent.settings.standInReply r.originAddress .noAnswer).drop 1).any fun x => decide (0x7F < x.toNat))
          = some why →
      (∀ q, (s.scheduler q).phase ≠ .headHeld) → s.trunk.pendingDepth = none →
      ∃ t, exec (.deadlineExpiry p line) s = .next t
        ∧ t = { s with
            pool := t.pool
            notices := (s.notices.post .exchangeClosed (some p) (some line) (some 1)).post .standinLost (some r.origin)
              (some r.originAddress) (some (match why with | .portDown => 1 | .width => 2 | .queueFull => 3))
            exchanges := { s.exchanges with records := s.exchanges.records.map fun x =>
              if x = r then { r with state := .lapsed, remaining := r.window, lateHold := false } else x } }
        ∧ (t.pool.descriptor d).state = .free ∧ (t.pool.descriptor d).refs = 0 ∧ (t.pool.descriptor d).cells = []
        ∧ (∀ k, k ≠ d → t.pool.descriptor k = s.pool.descriptor k)
        ∧ t.pool.free = s.pool.free ∧ StoredKept (c.val * 32) 10 s t)

/-! ### Notices -/

/-- NOTICE_POST: the notice takes the present next stamp, which advances modulo 65536 whether or not it is stored; below
32 records it stands last, at 32 it is lost and the held records stay (R166). -/
def Obligations.PostStampsAndStores : Prop :=
  ∀ (k : NoticeKind) (port : Option Port) (address : Option Chr) (detail : Option Word16) (s : State),
    ∃ t, exec (.noticePost k port address detail) s = .next t
      ∧ t = { s with notices := t.notices }
      ∧ t.notices.nextStamp.toNat = (s.notices.nextStamp.toNat + 1) % 65536
      ∧ (s.notices.records.length < 32 →
          t.notices.records = s.notices.records ++ [⟨s.notices.nextStamp, k, port, address, detail⟩])
      ∧ (32 ≤ s.notices.records.length → t.notices.records = s.notices.records)

/-! ### The Management Agent's gates -/

/-- A request that reaches the agent while a reply is outstanding or a command executes is discarded: MGMT_OVERRUN on
port T and nothing else (R177). Otherwise one that repeats the pair of the replay memory is not executed: the kept reply
is queued again unchanged, with one reference on descriptor 0, and no storage, table, setting, flag or notice changes,
whatever the parameters (R178). -/
def Obligations.GatesDiscardAndReplay : Prop :=
  (∀ (c : Instr) (id : RequestId) (params : List Chr) (s : State),
      c.requestOf = some (id, params) → ((s.pool.descriptor 0).refs ≠ 0 ∨ s.agent.executing ≠ none) →
      exec c s = .next { s with notices := s.notices.post .mgmtOverrun (some .trunk) none none })
  ∧ (∀ (c : Instr) (id : RequestId) (params : List Chr) (s : State),
      c.requestOf = some (id, params) → (s.pool.descriptor 0).refs = 0 → s.agent.executing = none →
      s.agent.replay = some id →
      ∃ t, exec c s = .next t
        ∧ (t.scheduler .trunk).queue = (s.scheduler .trunk).queue ++ [⟨0, s.mgmtAddress, none⟩]
        ∧ t.pool.telegram 0 = s.pool.telegram 0
        ∧ t.pool.descriptor 0 = { s.pool.descriptor 0 with refs := 1 }
        ∧ (∀ d, d ≠ 0 → t.pool.descriptor d = s.pool.descriptor d) ∧ t.pool.cells = s.pool.cells
        ∧ t.pool.free = s.pool.free ∧ LineKept (s.port .trunk) (t.port .trunk) ∧ OtherPortsKept .trunk s t
        ∧ BlocksKept s t ∧ t.exchanges = s.exchanges)

/-- MGMT_REQUEST of a telegram of the request's form with a good CRC: its descriptor is given up, and the command its
code names runs with the sequence number and the parameters (R87, R173, R174, R179). One whose code names no command is
answered UNKNOWN, and one with another number of parameters than its command takes LENGTH, and the command changes
nothing (R179, R180). A PORT_CONTROL request whose port is above 04h, or whose action is above 03h and so no command of
the table, is refused RANGE and changes nothing (R160). -/
def Obligations.RequestIsDispatched : Prop :=
  (∀ (s : State) (d : DescNo) (rest : List DescNo) (a seq code : Chr) (params : List Chr) (c : Instr),
      s.agent.requests = d :: rest → params.length ≤ 59 → c.requestOf = some (⟨seq, code⟩, params) →
      s.pool.telegram d = [a, code, seq] ++ params ++ twoChars (crc16 ([a, code, seq] ++ params)) →
      ∃ t, exec .mgmtRequest s = .next t ∧ t.agent.requests = rest
        ∧ exec c { s with agent := { s.agent with requests := rest }, pool := s.pool.giveUp d } = .next t)
  ∧ (∀ (s : State) (d : DescNo) (rest : List DescNo) (a seq code : Chr) (params : List Chr),
      CellsCanonical s → s.agent.requests = d :: rest → d ≠ 0 → params.length ≤ 59 → Ready s ⟨seq, code⟩ →
      s.pool.telegram d = [a, code, seq] ++ params ++ twoChars (crc16 ([a, code, seq] ++ params)) →
      (code.toNat = 0 ∨ 0x12 < code.toNat →
        ∃ t, exec .mgmtRequest s = .next t
          ∧ Replied { s with agent := { s.agent with requests := rest }, pool := s.pool.giveUp d } t ⟨seq, code⟩
              ⟨.unknown, []⟩)
      ∧ ((code = 0x01 ∨ code = 0x0B ∨ code = 0x0C ∨ code = 0x0E ∨ code = 0x11) ∧ params ≠ []
          ∨ (code = 0x02 ∨ code = 0x03 ∨ code = 0x06 ∨ code = 0x0F ∨ code = 0x12) ∧ params.length ≠ 1
          ∨ (code = 0x05 ∨ code = 0x08 ∨ code = 0x0D) ∧ params.length ≠ 2
          ∨ (code = 0x09 ∨ code = 0x0A) ∧ params.length ≠ 3
          ∨ code = 0x07 ∧ params.length ≠ 11 ∨ code = 0x10 ∧ params.length ≠ 18
          ∨ code = 0x04 ∧ (params.length < 14 ∨ params.length ≠ 14 + 2 * (params.getD 13 0).toNat) →
        ∃ t, exec .mgmtRequest s = .next t
          ∧ Replied { s with agent := { s.agent with requests := rest }, pool := s.pool.giveUp d } t ⟨seq, code⟩
              ⟨.length, []⟩)
      ∧ (∀ port action, code = 0x05 → params = [port, action] → 4 < port.toNat ∨ 3 < action.toNat →
        ∃ t, exec .mgmtRequest s = .next t
          ∧ Replied { s with agent := { s.agent with requests := rest }, pool := s.pool.giveUp d } t ⟨seq, code⟩
              ⟨.range, []⟩))

/-- MGMT_REQUEST of a telegram that is too short, too long, or fails its CRC: MGMT_REJECTED on port T with the first
reason that applies, the descriptor given up, and nothing else (R176). -/
def Obligations.BadRequestIsRejected : Prop :=
  ∀ (s : State) (d : DescNo) (rest : List DescNo),
    s.agent.requests = d :: rest →
    ((s.pool.telegram d).length < 5 ∨ 64 < (s.pool.telegram d).length
      ∨ (s.pool.telegram d).drop ((s.pool.telegram d).length - 2)
          ≠ twoChars (crc16 ((s.pool.telegram d).take ((s.pool.telegram d).length - 2)))) →
    exec .mgmtRequest s = .next { s with
      agent := { s.agent with requests := rest }
      pool := s.pool.giveUp d
      notices := s.notices.post .mgmtRejected (some .trunk) none
        (some (if (s.pool.telegram d).length < 5 then 2 else if 64 < (s.pool.telegram d).length then 3 else 1)) }
    ∧ ((s.pool.descriptor d).refs = 1 → ((s.pool.giveUp d).descriptor d).state = .free
        ∧ ∀ k, k ≠ d → (s.pool.giveUp d).descriptor k = s.pool.descriptor k)

/-- The bits of the status character (R181, Table 10-4). -/
def Obligations.StatusCharacterBits : Prop :=
  ∀ s : State,
    s.statusChar.getLsbD 7 = s.agent.forwarding
    ∧ (s.statusChar.getLsbD 6 = true ↔ s.notices.records ≠ [])
    ∧ (s.statusChar.getLsbD 5 = true ↔ ∃ p, p ≠ .trunk ∧ (s.port p).admin = .faulted)
    ∧ s.statusChar.getLsbD 4 = s.agent.restartSeen
    ∧ (s.statusChar.getLsbD 3 = true ↔ s.exchanges.records ≠ [])
    ∧ s.statusChar.toNat % 8 = (match s.routes.shadow with
        | .clean => 0 | .edited => 1 | .validating => 2 | .reseeding => 3 | .stale => 4)

/-! ### Management commands -/

/-- STATUS is answered with the figures of Table 10-8 as they stand and clears the restart-seen flag, after its reply's
status character has been formed with it; nothing else changes (R181, R182). -/
def Obligations.StatusReply : Prop :=
  ∀ (seq : Chr) (s : State), CellsCanonical s → Ready s ⟨seq, 0x01⟩ →
    ∃ t, exec (.status seq) s = .next t ∧ t.agent.restartSeen = false
      ∧ Replied s { t with agent := { t.agent with restartSeen := s.agent.restartSeen } } ⟨seq, 0x01⟩
          ⟨.ok, [s.straps.maddr.zeroExtend 8, s.straps.tbaud.zeroExtend 8, BitVec.ofNat 8 s.pool.freeDescriptorCount,
            BitVec.ofNat 8 s.pool.free.length, BitVec.ofNat 8 s.exchanges.records.length,
            BitVec.ofNat 8 s.notices.records.length, s.notices.nextStamp.extractLsb' 8 8,
            s.notices.nextStamp.extractLsb' 0 8]⟩

/-- FORWARDING with 01h sets the forwarding state ON and with 00h OFF, before its reply is built; with any other value
it is refused RANGE and the state stays (R35). RESTART with 00h or 01h is answered OK and sets the restart pending,
which is performed when the reply leaves; any other value is refused RANGE and sets none (R187). -/
def Obligations.ForwardingAndRestartReplies : Prop :=
  (∀ (seq v : Chr) (s : State), CellsCanonical s → Ready s ⟨seq, 0x02⟩ →
      ∃ t, exec (.forwarding seq v) s = .next t
        ∧ (v = 0x00 ∨ v = 0x01 →
            Replied { s with agent := { s.agent with forwarding := decide (v = 0x01) } } t ⟨seq, 0x02⟩ ⟨.ok, []⟩)
        ∧ (1 < v.toNat → Replied s t ⟨seq, 0x02⟩ ⟨.range, []⟩))
  ∧ (∀ (seq v : Chr) (s : State), CellsCanonical s → Ready s ⟨seq, 0x12⟩ →
      ∃ t, exec (.restart seq v) s = .next t
        ∧ (v = 0x00 ∨ v = 0x01 →
            t.agent.restartPending = some (if v = 0x00 then .warm else .cold)
              ∧ Replied s { t with agent := { t.agent with restartPending := s.agent.restartPending } } ⟨seq, 0x12⟩ ⟨.ok, []⟩)
        ∧ (1 < v.toNat → Replied s t ⟨seq, 0x12⟩ ⟨.range, []⟩))

/-- PORT_READ of a port 0 to 4 is answered with the data of Table 10-12, 30 + 2n characters, high character first in
every number, and changes nothing; any other value is refused RANGE (R163, R192, R194, R195). COUNTERS_CLEAR of a port 0
to 4 sets its four counters to 0, of FFh those of every port, in one step, answered OK; any other value is refused RANGE
and clears nothing. Administrative states, formats, consecutive-abandon counts and notices stay (R162). -/
def Obligations.PortReadAndCountersClearReplies : Prop :=
  (∀ (seq v : Chr) (s : State), CellsCanonical s → Ready s ⟨seq, 0x03⟩ → RecordsInRange s →
      ∃ t, exec (.portRead seq v) s = .next t
        ∧ (∀ (p : Port) (x : PortState) (f : FormatRecord) (data : List Chr),
            v.toNat = p.number → x = s.port p → f = x.format →
            data =
              [v,
                match f.width with | .seven => 0x07 | .eight => 0x08,
                match f.parity with | .noParity => 0x00 | .even => 0x01 | .odd => 0x02,
                match f.stopBits with | .one => 0x01 | .two => 0x02,
                match f.framing with | .idleLine => 0x00 | .addressBit => 0x01,
                BitVec.ofNat 8 f.endGap, BitVec.ofNat 8 f.guardGap, BitVec.ofNat 8 f.overlap,
                BitVec.ofNat 8 f.retryLimit, BitVec.ofNat 8 f.abandonLimit,
                BitVec.ofNat 8 (f.stuckLimit / 256), BitVec.ofNat 8 (f.stuckLimit % 256),
                match f.miss with | .drop => 0x00 | .dropNote => 0x01 | .passToTrunk => 0x02,
                BitVec.ofNat 8 f.pattern.length]
              ++ f.pattern.flatMap (fun n => [BitVec.ofNat 8 (n / 256), BitVec.ofNat 8 (n % 256)])
              ++ [match x.admin with | .disabled => 0x00 | .active => 0x01 | .faulted => 0x02,
                match x.lastFault with | none => 0x00 | some .stuck => 0x01 | some .contention => 0x02,
                match x.receiver with
                  | .off => 0x00 | .settling => 0x01 | .idle => 0x02 | .inTelegram _ _ => 0x03 | .discarding _ _ => 0x04
                  | .echo _ => 0x05,
                match x.monitor with | .released => 0x00 | .busy => 0x01 | .spaceHeld => 0x02,
                match x.scheduler.phase with
                  | .empty => 0x00 | .headHeld => 0x01 | .reserved => 0x02 | .onLine => 0x03 | .backoff => 0x04,
                BitVec.ofNat 8 x.scheduler.queue.length, BitVec.ofNat 8 x.scheduler.attempts,
                BitVec.ofNat 8 x.scheduler.abandons]
              ++ [x.counters.rxTelegrams, x.counters.rxDiscarded, x.counters.txTelegrams, x.counters.collisions].flatMap
                  (fun n => [BitVec.ofNat 8 (n / 256), BitVec.ofNat 8 (n % 256)]) →
            Replied s t ⟨seq, 0x03⟩ ⟨.ok, data⟩ ∧ data.length = 30 + 2 * f.pattern.length)
        ∧ (4 < v.toNat → Replied s t ⟨seq, 0x03⟩ ⟨.range, []⟩))
  ∧ (∀ (seq v : Chr) (s : State), CellsCanonical s → Ready s ⟨seq, 0x06⟩ →
      ∃ t, exec (.countersClear seq v) s = .next t
        ∧ (∀ p : Port, v.toNat = p.number →
            Replied (s.setPort p { s.port p with counters := ⟨0, 0, 0, 0⟩ }) t ⟨seq, 0x06⟩ ⟨.ok, []⟩)
        ∧ (v = 0xFF → ∃ u, Replied u t ⟨seq, 0x06⟩ ⟨.ok, []⟩ ∧ u = { s with ports := u.ports }
            ∧ ∀ p, u.port p = { s.port p with counters := ⟨0, 0, 0, 0⟩ })
        ∧ (4 < v.toNat → v ≠ 0xFF → Replied s t ⟨seq, 0x06⟩ ⟨.range, []⟩))

/-- PORT_FORMAT of a record in the ranges of Table 8-1: at once on a DISABLED branch, refused STATE on another branch,
held pending on T where it is 8-bit and does not pass misses to the trunk, and refused RANGE there otherwise; the port's
counters, administrative state and mark span stay (R150, R151, R152, R186). A port character above 04h is refused RANGE
whatever the record, and so is, on any port, a record with a code or a number outside Table 10-10 and Table 8-1, a guard
below its end gap included; nothing of it is taken (R150, R194). -/
def Obligations.PortFormatReply : Prop :=
  (∀ (seq : Chr) (p : Port) (f : FormatRecord) (s : State),
      CellsCanonical s → Ready s ⟨seq, 0x04⟩ → f.inRanges = true →
      ∃ t, exec (.portFormat seq (p.toChr :: f.chars)) s = .next t
        ∧ (p ≠ .trunk → (s.port p).admin = .disabled →
            Replied (s.setPort p { s.port p with format := f }) t ⟨seq, 0x04⟩ ⟨.ok, []⟩)
        ∧ (p ≠ .trunk → (s.port p).admin ≠ .disabled → Replied s t ⟨seq, 0x04⟩ ⟨.state, []⟩)
        ∧ (p = .trunk → f.width = .eight → f.miss ≠ .passToTrunk →
            Replied { s with trunk := { s.trunk with pendingFormat := some f } } t ⟨seq, 0x04⟩ ⟨.ok, []⟩)
        ∧ (p = .trunk → (f.width = .seven ∨ f.miss = .passToTrunk) → Replied s t ⟨seq, 0x04⟩ ⟨.range, []⟩))
  ∧ (∀ (seq v : Chr) (rec : List Chr) (s : State), CellsCanonical s → Ready s ⟨seq, 0x04⟩ →
      rec.length = 13 + 2 * (rec.getD 12 0).toNat →
      ∃ t, exec (.portFormat seq (v :: rec)) s = .next t
        ∧ (4 < v.toNat → Replied s t ⟨seq, 0x04⟩ ⟨.range, []⟩)
        ∧ (((rec.getD 0 0).toNat ≠ 7 ∧ (rec.getD 0 0).toNat ≠ 8 ∨ 2 < (rec.getD 1 0).toNat
              ∨ (rec.getD 2 0).toNat ≠ 1 ∧ (rec.getD 2 0).toNat ≠ 2 ∨ 1 < (rec.getD 3 0).toNat
              ∨ (rec.getD 4 0).toNat < 2 ∨ 40 < (rec.getD 4 0).toNat
              ∨ (rec.getD 5 0).toNat < (rec.getD 4 0).toNat ∨ 64 < (rec.getD 5 0).toNat
              ∨ (rec.getD 6 0).toNat < 1 ∨ 4 < (rec.getD 6 0).toNat ∨ 7 < (rec.getD 7 0).toNat
              ∨ (rec.getD 8 0).toNat < 1 ∨ 15 < (rec.getD 8 0).toNat
              ∨ (rec.getD 9 0).toNat * 256 + (rec.getD 10 0).toNat < 10
              ∨ 1000 < (rec.getD 9 0).toNat * 256 + (rec.getD 10 0).toNat
              ∨ 2 < (rec.getD 11 0).toNat ∨ (rec.getD 12 0).toNat < 1 ∨ 12 < (rec.getD 12 0).toNat
              ∨ ∃ k, k < (rec.getD 12 0).toNat
                  ∧ ((rec.getD (13 + 2 * k) 0).toNat * 256 + (rec.getD (14 + 2 * k) 0).toNat < 8
                    ∨ 4095 < (rec.getD (13 + 2 * k) 0).toNat * 256 + (rec.getD (14 + 2 * k) 0).toNat)) →
            Replied s t ⟨seq, 0x04⟩ ⟨.range, []⟩))

/-- ENABLE of a DISABLED branch and RECOVER of a FAULTED branch at mark bring it to ACTIVE: last fault reason absent,
SETTLING, scheduler EMPTY with both counts 0. ENABLE of an ACTIVE branch is answered OK and changes nothing; every other
case, T included, is refused STATE, and a port character above 04h RANGE (R155, R158, R160). Two points are the model's:
the receiver is in SETTLING even on a line already quiet for the end gap, where R117 says IDLE at once and the model
raises END_GAP before the next tick (entry 25), and the flag of a met stuck limit is cleared (entry 24). -/
def Obligations.EnableAndRecoverReplies : Prop :=
  (∀ (seq v : Chr) (s : State), CellsCanonical s → Ready s ⟨seq, 0x05⟩ → 4 < v.toNat →
      (∃ t, exec (.enable seq v) s = .next t ∧ Replied s t ⟨seq, 0x05⟩ ⟨.range, []⟩)
      ∧ ∃ t, exec (.recover seq v) s = .next t ∧ Replied s t ⟨seq, 0x05⟩ ⟨.range, []⟩)
  ∧ ∀ (seq : Chr) (p : Port) (s : State), CellsCanonical s → Ready s ⟨seq, 0x05⟩ →
    (∃ t, exec (.enable seq p.toChr) s = .next t
      ∧ (p ≠ .trunk → (s.port p).admin = .disabled →
          Replied (s.setPort p { s.port p with
            admin := .active, lastFault := none, receiver := .settling, limitReached := false,
            scheduler := { s.scheduler p with phase := .empty, attempts := 0, abandons := 0 } }) t ⟨seq, 0x05⟩ ⟨.ok, []⟩)
      ∧ (p ≠ .trunk → (s.port p).admin = .active → Replied s t ⟨seq, 0x05⟩ ⟨.ok, []⟩)
      ∧ (p = .trunk ∨ (s.port p).admin = .faulted → Replied s t ⟨seq, 0x05⟩ ⟨.state, []⟩))
    ∧ (∃ t, exec (.recover seq p.toChr) s = .next t
      ∧ (p ≠ .trunk → (s.port p).admin = .faulted → (s.port p).rxPin = .mark →
          Replied (s.setPort p { s.port p with
            admin := .active, lastFault := none, receiver := .settling, limitReached := false,
            scheduler := { s.scheduler p with phase := .empty, attempts := 0, abandons := 0 } }) t ⟨seq, 0x05⟩ ⟨.ok, []⟩)
      ∧ (p = .trunk ∨ (s.port p).admin ≠ .faulted ∨ (s.port p).rxPin = .space →
          Replied s t ⟨seq, 0x05⟩ ⟨.state, []⟩))

/-- DISABLE of an ACTIVE branch: DISABLED, its queue emptied with PURGED where it held an entry, its scheduler EMPTY,
the transmission cut, the receiver OFF, an open telegram abandoned, counted once in rx_discarded, its descriptor FREE
and its cells on the free list, no open record left on the port, each closed with EXCHANGE_CLOSED and detail
UNREACHABLE, the youngest first; with no stand-in reply stored, the pool before the reply is what the queue's references
and the abandoned telegram leave; where one of the records has a stand-in reply that finds storage and is taken, that
reply is queued toward its origin (R63, R65, R69, R70, R84, R86, R126). A FAULTED branch only changes state; a DISABLED
one stays as it is; T is refused STATE, and a port character above 04h RANGE (R112, R126, R156, R160). These points are
the model's: PURGED is posted before any EXCHANGE_CLOSED (entry 4; R167 lets them stand in any order); a receiver in
ECHO is OFF in this very step (entry 11, beside Table 6-5); a RELEASED line is not free for the stand-in reply's head
while its port's driver finishes a cut character, and the start leaves the line monitor as it stands (entry 16); its
backoff gap stays (entry 33); and a completion without a descriptor, which that start may raise, has its wide flag clear
(entry 34). -/
def Obligations.DisableTakesBranchDown : Prop :=
  (∀ (seq v : Chr) (s : State), CellsCanonical s → Ready s ⟨seq, 0x05⟩ → 4 < v.toNat →
      ∃ t, exec (.disable seq v) s = .next t ∧ Replied s t ⟨seq, 0x05⟩ ⟨.range, []⟩)
  ∧ ∀ (seq : Chr) (p : Port) (s : State), CellsCanonical s → Ready s ⟨seq, 0x05⟩ →
    ∃ t, exec (.disable seq p.toChr) s = .next t
      ∧ (p ≠ .trunk → (s.port p).admin = .active → (s.port p).counters.rxDiscarded ≤ 65535 →
          (t.port p).admin = .disabled ∧ (t.port p).lastFault = none ∧ (t.port p).receiver = .off
            ∧ (t.scheduler p).queue = [] ∧ (t.scheduler p).phase = .empty
            ∧ (t.scheduler p).abandons = (s.scheduler p).abandons
            ∧ (t.port p).transmitter = (s.port p).transmitter.cutShort
            ∧ AbandonCounted (s.port p) (t.port p)
            ∧ (∀ r ∈ t.exchanges.records, r.target = p → r.isOpen = false ∧ r.lateHold = false)
            ∧ ((s.scheduler p).queue ≠ [] → s.notices.records.length < 32 →
                t.notices.records[s.notices.records.length]? = some
                  ⟨s.notices.nextStamp, .purged, some p, none, some (BitVec.ofNat 16 (s.scheduler p).queue.length)⟩)
            ∧ t.agent.replay = some ⟨seq, 0x05⟩ ∧ t.agent.executing = none ∧ t.routes = s.routes
            ∧ (ExchangesSound s → (∀ q, q ≠ p → (s.scheduler q).phase ≠ .headHeld) → s.trunk.pendingDepth = none →
                (∀ r ∈ s.exchanges.records, r.target = p → r.isOpen = true →
                  r.standIn = false ∨ s.pool.freeDescriptor? = none ∧ (s.scheduler p).queue = []) →
                RecordsLost p s t (s.notices.purgedOf p (s.scheduler p).queue.length)
                  (fun r => if r.standIn then some 4 else none))
            ∧ AbandonedFreed p s t
            ∧ (∃ u, Replied u t ⟨seq, 0x05⟩ ⟨.ok, []⟩
                ∧ (ExchangesSound s → (∀ q, q ≠ p → (s.scheduler q).phase ≠ .headHeld) → s.trunk.pendingDepth = none →
                    (∀ r ∈ s.exchanges.records, r.target = p → r.isOpen = true →
                      r.standIn = false ∨ s.pool.freeDescriptor? = none ∧ (s.scheduler p).queue = []) →
                    u.pool = s.lostPool p)
                ∧ (∀ r d c, ExchangesSound s → (∀ q, q ≠ p → (s.scheduler q).phase ≠ .headHeld) →
                    s.trunk.pendingDepth = none → s.agent.settings.inRanges = true → LossStandIn p s r d c →
                    LossAnswered p s u r d c (s.notices.purgedOf p (s.scheduler p).queue.length))))
      ∧ (p ≠ .trunk → (s.port p).admin = .faulted →
          Replied (s.setPort p { s.port p with admin := .disabled, lastFault := none }) t ⟨seq, 0x05⟩ ⟨.ok, []⟩)
      ∧ (p ≠ .trunk → (s.port p).admin = .disabled → Replied s t ⟨seq, 0x05⟩ ⟨.ok, []⟩)
      ∧ (p = .trunk → Replied s t ⟨seq, 0x05⟩ ⟨.state, []⟩)

/-- PURGE removes every entry that is not on the line, each giving up its reference in queue order, posts PURGED with
the number where it is not 0, and is answered with the number: a head on the line stays, with its scheduler; else the
scheduler is EMPTY (R86, R110, R160). A head in BACKOFF with a SENDING record leaves like the rest, and its exchange
closes UNREACHABLE, with EXCHANGE_CLOSED and, where stand-in is ON and its offer is taken, its stand-in reply (R62, R65,
R69, R70, R110). A port character above 04h is refused RANGE (R160). That EXCHANGE_CLOSED stands before PURGED, where
R65 and R167 allow either, is the model's order (entry 4). That the backoff gap, without meaning outside BACKOFF, is 0
after a PURGE is the model's choice (entry 33). So is, for the head that a stand-in reply may become, that a RELEASED
line is not free while its port's driver finishes a cut character and that the start leaves the line monitor as it
stands (entry 16), and that a completion without a descriptor, which that start may raise, has its wide flag clear
(entry 34). -/
def Obligations.PurgeReply : Prop :=
  (∀ (seq v : Chr) (s : State), CellsCanonical s → Ready s ⟨seq, 0x05⟩ → 4 < v.toNat →
      ∃ t, exec (.purge seq v) s = .next t ∧ Replied s t ⟨seq, 0x05⟩ ⟨.range, []⟩)
  ∧ (∀ (seq : Chr) (p : Port) (s : State) (gone : List QueueEntry),
      CellsCanonical s → Ready s ⟨seq, 0x05⟩ → ((s.scheduler p).phase = .backoff → ∀ x ∈ (s.scheduler p).queue.head?, s.exchanges.sendingRecord p x.desc = none) →
      (∀ x ∈ gone, x.desc ≠ 0) →
      gone = (if (s.scheduler p).phase = .onLine then (s.scheduler p).queue.tail else (s.scheduler p).queue) →
      ∃ t u, exec (.purge seq p.toChr) s = .next t ∧ Replied u t ⟨seq, 0x05⟩ ⟨.ok, [BitVec.ofNat 8 gone.length]⟩
        ∧ u = { s.setPort p { s.port p with scheduler := u.scheduler p } with
            pool := gone.foldl (fun q x => q.dropRef x.desc) s.pool
            notices := if gone = [] then s.notices
                       else s.notices.post .purged (some p) none (some (BitVec.ofNat 16 gone.length)) }
        ∧ ((s.scheduler p).phase = .onLine →
            u.scheduler p = { s.scheduler p with queue := (s.scheduler p).queue.take 1 })
        ∧ ((s.scheduler p).phase ≠ .onLine →
            u.scheduler p = { s.scheduler p with queue := [], phase := .empty, attempts := 0, backoffGap := 0 }))
  ∧ (∀ (seq : Chr) (p : Port) (s : State) (e : QueueEntry) (rest : List QueueEntry) (r : ExchangeRecord),
      CellsCanonical s → Ready s ⟨seq, 0x05⟩ → ExchangesSound s → (s.scheduler p).phase = .backoff →
      (s.scheduler p).queue = e :: rest → (∀ x ∈ e :: rest, x.desc ≠ 0) →
      s.exchanges.sendingRecord p e.desc = some r →
      (∀ q, (s.scheduler q).phase ≠ .headHeld) → s.trunk.pendingDepth = none →
      ∃ t u, exec (.purge seq p.toChr) s = .next t
        ∧ Replied u t ⟨seq, 0x05⟩ ⟨.ok, [BitVec.ofNat 8 (rest.length + 1)]⟩
        ∧ (r.standIn = false →
            u = { s.setPort p { s.port p with scheduler :=
                    { s.scheduler p with queue := [], phase := .empty, attempts := 0, backoffGap := 0 } } with
                  pool := (e :: rest).foldl (fun q x => q.dropRef x.desc) s.pool
                  exchanges := { s.exchanges with records := s.exchanges.records.filter fun x => decide (x ≠ r) }
                  notices := (s.notices.post .exchangeClosed (some p) (some r.line) (some 3)).post .purged (some p) none
                    (some (BitVec.ofNat 16 (rest.length + 1))) })
        ∧ (∀ d c, r.standIn = true → r.origin ≠ p → s.agent.settings.inRanges = true → (∀ x ∈ rest, x.desc ≠ d) →
            StandInTaken { s with pool := s.pool.dropRef e.desc } r .unreachable d c →
            StandInQueued s u r .unreachable d c
              ∧ u.scheduler p = { s.scheduler p with queue := [], phase := .empty, attempts := 0, backoffGap := 0 }
              ∧ u.exchanges = { s.exchanges with records := s.exchanges.records.filter fun x => decide (x ≠ r) }
              ∧ u.notices = (s.notices.post .exchangeClosed (some p) (some r.line) (some 3)).post .purged (some p) none
                  (some (BitVec.ofNat 16 (rest.length + 1)))
              ∧ u.routes = s.routes ∧ u.agent = s.agent))

/-- ROUTE_WRITE in CLEAN or EDITED of an entry that passes the checks of R3, with its key held or room in the bank: the
shadow bank holds it and every entry of another key as before, in key order, the shadow is EDITED, the active bank and
the roles stay, and the reply carries OK and the number of entries. Refused, with the bank and the shadow state as they
were: BUSY in VALIDATING and RESEEDING, STATE in STALE, then RANGE where the record fails a check of R3, then FULL for a
new key at 128 entries (R3, R6). -/
def Obligations.RouteWriteReply : Prop :=
  (∀ (seq port address dests flags egress : Chr) (window count reload : Word16) (s : State) (x : RouteEntry),
      CellsCanonical s → Ready s ⟨seq, 0x07⟩ → BanksSound s → (s.routes.shadow = .clean ∨ s.routes.shadow = .edited) →
      parseRoute (routeRecord port address dests flags egress window count reload) = some x →
      x.legal s.mgmtAddress = true →
      ((∃ y ∈ s.routes.shadowBank, y.rank = x.rank) ∨ s.routes.shadowBank.length < 128) →
      ∃ t u, exec (.routeWrite seq port address dests flags egress window count reload) s = .next t
        ∧ Replied u t ⟨seq, 0x07⟩ ⟨.ok, [BitVec.ofNat 8 u.routes.shadowBank.length]⟩
        ∧ u = { s with routes := { s.routes.setShadow u.routes.shadowBank with shadow := .edited } }
        ∧ (∀ y, y ∈ u.routes.shadowBank ↔ y = x ∨ y ∈ s.routes.shadowBank ∧ y.rank ≠ x.rank)
        ∧ (u.routes.shadowBank.map RouteEntry.rank).Pairwise (· < ·))
  ∧ (∀ (seq port address dests flags egress : Chr) (window count reload : Word16) (s : State),
      CellsCanonical s → Ready s ⟨seq, 0x07⟩ →
      ∃ t, exec (.routeWrite seq port address dests flags egress window count reload) s = .next t
        ∧ (s.routes.shadow = .validating ∨ s.routes.shadow = .reseeding → Replied s t ⟨seq, 0x07⟩ ⟨.busy, []⟩)
        ∧ (s.routes.shadow = .stale → Replied s t ⟨seq, 0x07⟩ ⟨.state, []⟩)
        ∧ (s.routes.shadow = .clean ∨ s.routes.shadow = .edited →
            (4 < port.toNat ∨ 31 < dests.toNat ∨ 31 < flags.toNat ∨ dests = 0
              ∨ dests.getLsbD port.toNat = true
              ∨ flags.getLsbD 1 = true ∧ (window.toNat = 0 ∨ 4000 < window.toNat)
              ∨ flags.getLsbD 1 = true ∧ ((List.range 5).filter dests.getLsbD).length ≠ 1
              ∨ flags.getLsbD 3 = true ∧ (count = 0 ∨ reload = 0)
              ∨ port = 0 ∧ address = s.mgmtAddress
              ∨ dests.getLsbD 0 = true ∧ (if flags.getLsbD 0 then egress else address) = s.mgmtAddress) →
            Replied s t ⟨seq, 0x07⟩ ⟨.range, []⟩)
        ∧ (∀ x, s.routes.shadow = .clean ∨ s.routes.shadow = .edited →
            parseRoute (routeRecord port address dests flags egress window count reload) = some x →
            x.legal s.mgmtAddress = true → findEntry s.routes.shadowBank x.arrival x.address = none →
            128 ≤ s.routes.shadowBank.length → Replied s t ⟨seq, 0x07⟩ ⟨.full, []⟩))

/-- ROUTE_DELETE in CLEAN or EDITED removes the entry of its key and no other, sets EDITED and is answered with the
number left; a key the shadow bank does not hold is refused ABSENT. BUSY and STATE come before RANGE for the port, and
RANGE before ABSENT (R7). -/
def Obligations.RouteDeleteReply : Prop :=
  ∀ (seq v a : Chr) (s : State), CellsCanonical s → Ready s ⟨seq, 0x08⟩ → BanksSound s →
    ∃ t, exec (.routeDelete seq v a) s = .next t
      ∧ (s.routes.shadow = .validating ∨ s.routes.shadow = .reseeding → Replied s t ⟨seq, 0x08⟩ ⟨.busy, []⟩)
      ∧ (s.routes.shadow = .stale → Replied s t ⟨seq, 0x08⟩ ⟨.state, []⟩)
      ∧ (s.routes.shadow = .clean ∨ s.routes.shadow = .edited →
          (4 < v.toNat → Replied s t ⟨seq, 0x08⟩ ⟨.range, []⟩)
          ∧ (v.toNat ≤ 4 → (∀ y ∈ s.routes.shadowBank, y.rank ≠ v.toNat * 256 + a.toNat) →
              Replied s t ⟨seq, 0x08⟩ ⟨.absent, []⟩)
          ∧ (∀ pre x post, v.toNat ≤ 4 → s.routes.shadowBank = pre ++ x :: post → x.rank = v.toNat * 256 + a.toNat →
              Replied { s with routes := { s.routes.setShadow (pre ++ post) with shadow := .edited } } t ⟨seq, 0x08⟩
                ⟨.ok, [BitVec.ofNat 8 (pre.length + post.length)]⟩))

/-- ROUTE_READ and ROUTE_LIST read the bank their role character names, change nothing and are answered: a role that
names no bank or a port outside 0 to 4 with RANGE, the shadow bank in RESEEDING with BUSY and in STALE with STATE; else
with the whole entry or ABSENT, and with up to 40 keys at or after the start key in key order and their number. The
active bank is read in every shadow state, the shadow bank in CLEAN, EDITED and VALIDATING (R8, R18, R180). RANGE comes
before the shadow state is looked at (section 10.3, under Table 10-6). -/
def Obligations.RouteReadsReply : Prop :=
  ∀ (seq b v a : Chr) (s : State), CellsCanonical s →
    (Ready s ⟨seq, 0x09⟩ → ∃ t, exec (.routeRead seq b v a) s = .next t
      ∧ (1 < b.toNat ∨ 4 < v.toNat → Replied s t ⟨seq, 0x09⟩ ⟨.range, []⟩)
      ∧ (b = 1 → v.toNat ≤ 4 → s.routes.shadow = .reseeding → Replied s t ⟨seq, 0x09⟩ ⟨.busy, []⟩)
      ∧ (b = 1 → v.toNat ≤ 4 → s.routes.shadow = .stale → Replied s t ⟨seq, 0x09⟩ ⟨.state, []⟩)
      ∧ (∀ (p : Port) (es : List RouteEntry), v.toNat = p.number →
          (b = 0 ∧ es = s.routes.activeBank
            ∨ b = 1 ∧ es = s.routes.shadowBank ∧ s.routes.shadow ≠ .reseeding ∧ s.routes.shadow ≠ .stale) →
          (∀ x, findEntry es p a = some x → Replied s t ⟨seq, 0x09⟩ ⟨.ok, x.chars⟩)
            ∧ (findEntry es p a = none → Replied s t ⟨seq, 0x09⟩ ⟨.absent, []⟩)))
    ∧ (Ready s ⟨seq, 0x0A⟩ → ∃ t, exec (.routeList seq b v a) s = .next t
      ∧ (1 < b.toNat ∨ 4 < v.toNat → Replied s t ⟨seq, 0x0A⟩ ⟨.range, []⟩)
      ∧ (b = 1 → v.toNat ≤ 4 → s.routes.shadow = .reseeding → Replied s t ⟨seq, 0x0A⟩ ⟨.busy, []⟩)
      ∧ (b = 1 → v.toNat ≤ 4 → s.routes.shadow = .stale → Replied s t ⟨seq, 0x0A⟩ ⟨.state, []⟩)
      ∧ (∀ es : List RouteEntry, v.toNat ≤ 4 →
          (b = 0 ∧ es = s.routes.activeBank
            ∨ b = 1 ∧ es = s.routes.shadowBank ∧ s.routes.shadow ≠ .reseeding ∧ s.routes.shadow ≠ .stale) →
          ∃ keys, keys <+: es.filter (fun x => decide (v.toNat * 256 + a.toNat ≤ x.rank)) ∧ keys.length ≤ 40
            ∧ (keys.length < 40 → keys = es.filter (fun x => decide (v.toNat * 256 + a.toNat ≤ x.rank)))
            ∧ Replied s t ⟨seq, 0x0A⟩
                ⟨.ok, BitVec.ofNat 8 keys.length :: keys.flatMap fun x => [BitVec.ofNat 8 x.arrival.number, x.address]⟩))

/-- TABLE_COMMIT in CLEAN or EDITED of a shadow with entries starts validation at its first entry and is answered later;
of an empty shadow it swaps at once and leaves the active bank empty and the shadow CLEAN; it is refused STATE in STALE.
TABLE_DISCARD in CLEAN, EDITED or STALE empties the shadow and starts the reseed, answered as it ends; with an empty
active bank it ends at once, answered OK with 0. Both are refused BUSY in VALIDATING and RESEEDING (R9, R12, R15, R17,
R18). That the executing command holds the sequence number is entry 18. -/
def Obligations.CommitAndDiscardStart : Prop :=
  (∀ (seq : Chr) (s : State), CellsCanonical s → Ready s ⟨seq, 0x0B⟩ →
      ∃ t, exec (.tableCommit seq) s = .next t
        ∧ (s.routes.shadow = .validating ∨ s.routes.shadow = .reseeding → Replied s t ⟨seq, 0x0B⟩ ⟨.busy, []⟩)
        ∧ (s.routes.shadow = .stale → Replied s t ⟨seq, 0x0B⟩ ⟨.state, []⟩)
        ∧ (s.routes.shadow = .clean ∨ s.routes.shadow = .edited → s.routes.shadowBank ≠ [] →
            t = { s with
              routes := { s.routes with shadow := .validating, validatePos := 0 }
              agent := { s.agent with executing := some ⟨seq, 0x0B⟩ } })
        ∧ (s.routes.shadow = .clean ∨ s.routes.shadow = .edited → s.routes.shadowBank = [] →
            t.routes.active ≠ s.routes.active ∧ t.routes.activeBank = [] ∧ t.routes.shadowBank = []
              ∧ t.routes.shadow = .clean ∧ t.agent.executing = none ∧ t.agent.replay = some ⟨seq, 0x0B⟩
              ∧ (t.scheduler .trunk).queue = (s.scheduler .trunk).queue ++ [s.replyEntry]))
  ∧ (∀ (seq : Chr) (s : State), CellsCanonical s → Ready s ⟨seq, 0x0C⟩ →
      ∃ t, exec (.tableDiscard seq) s = .next t
        ∧ (s.routes.shadow = .validating ∨ s.routes.shadow = .reseeding → Replied s t ⟨seq, 0x0C⟩ ⟨.busy, []⟩)
        ∧ (s.routes.shadow ≠ .validating → s.routes.shadow ≠ .reseeding → s.routes.activeBank ≠ [] →
            t = { s with
              routes := { s.routes.setShadow [] with shadow := .reseeding, reseedPos := 0 }
              agent := { s.agent with executing := some ⟨seq, 0x0C⟩ } })
        ∧ (s.routes.shadow ≠ .validating → s.routes.shadow ≠ .reseeding → s.routes.activeBank = [] →
            Replied { s with routes := { s.routes.setShadow [] with shadow := .clean, reseedPos := 0 } } t ⟨seq, 0x0C⟩
              ⟨.ok, [0]⟩))

/-- ROUTE_REARM of an active entry with an allowance sets its count to the reload value and its state to LIVE, and
touches no other entry, the shadow bank or the shadow state; ABSENT without the entry, STATE without an allowance, BUSY
in VALIDATING and RESEEDING, and before all of these RANGE for a port character above 04h (R23; section 10.3, under Table
10-6). -/
def Obligations.RouteRearmReply : Prop :=
  (∀ (seq v a : Chr) (s : State), CellsCanonical s → Ready s ⟨seq, 0x0D⟩ → 4 < v.toNat →
      ∃ t, exec (.routeRearm seq v a) s = .next t ∧ Replied s t ⟨seq, 0x0D⟩ ⟨.range, []⟩)
  ∧ ∀ (seq v a : Chr) (p : Port) (s : State), CellsCanonical s → Ready s ⟨seq, 0x0D⟩ → BanksSound s → v.toNat = p.number →
    ∃ t, exec (.routeRearm seq v a) s = .next t
      ∧ (s.routes.shadow = .validating ∨ s.routes.shadow = .reseeding → Replied s t ⟨seq, 0x0D⟩ ⟨.busy, []⟩)
      ∧ (s.routes.shadow ≠ .validating → s.routes.shadow ≠ .reseeding →
          (findEntry s.routes.activeBank p a = none → Replied s t ⟨seq, 0x0D⟩ ⟨.absent, []⟩)
          ∧ (∀ pre x post, s.routes.activeBank = pre ++ x :: post → x.arrival = p → x.address = a →
              (x.allowance = none → Replied s t ⟨seq, 0x0D⟩ ⟨.state, []⟩)
              ∧ (∀ al, x.allowance = some al →
                  Replied { s with routes := s.routes.setActive (pre ++ { x with allowance := some { al with count := al.reload }, retired := false } :: post) }
                    t ⟨seq, 0x0D⟩ ⟨.ok, []⟩)))

/-- EXCHANGE_LIST is answered with every record the table holds, oldest first, in the layout of Table 10-13 with their
number, and changes nothing: the time remaining is 0 in SENDING, and the request descriptor stands there in SENDING
alone (R50, R73, R192, R195). NOTICE_READ with a maximum of 1 to 24 removes that many of the oldest records, or all that
there are, and returns them in order, in the layout of Table 10-14 with the kind codes of Table 10-11 and 00h for an
absent field, with their number and the next stamp, which stays (R168, R195); any other maximum is refused RANGE and
removes none (R168). -/
def Obligations.ListAndDrainReplies : Prop :=
  (∀ (seq : Chr) (s : State), CellsCanonical s → Ready s ⟨seq, 0x0E⟩ → ExchangesSound s →
      ∃ t rs, exec (.exchangeList seq) s = .next t
        ∧ List.Perm rs s.exchanges.records ∧ rs.Pairwise (fun x y => s.exchanges.age y ≤ s.exchanges.age x)
        ∧ Replied s t ⟨seq, 0x0E⟩ ⟨.ok, BitVec.ofNat 8 rs.length :: rs.flatMap fun r =>
            [BitVec.ofNat 8 r.target.number, r.line, BitVec.ofNat 8 r.origin.number, r.originAddress,
              BitVec.ofNat 8 (r.window / 256), BitVec.ofNat 8 (r.window % 256),
              BitVec.ofNat 8 ((match r.state with | .sending => 0 | .awaiting => 1 | .answering => 2 | .lapsed => 3)
                + (if r.standIn then 4 else 0) + (if r.lateHold then 8 else 0)),
              if r.state = .sending then 0x00 else BitVec.ofNat 8 (r.remaining / 256),
              if r.state = .sending then 0x00 else BitVec.ofNat 8 (r.remaining % 256),
              match r.state, r.request with | .sending, some d => BitVec.ofNat 8 d.val | _, _ => 0xFF,
              r.seq.extractLsb' 8 8, r.seq.extractLsb' 0 8]⟩)
  ∧ (∀ (seq n : Chr) (s : State), CellsCanonical s → Ready s ⟨seq, 0x0F⟩ →
      ∃ t, exec (.noticeRead seq n) s = .next t
        ∧ (1 ≤ n.toNat → n.toNat ≤ 24 →
            Replied { s with notices := { s.notices with records := s.notices.records.drop n.toNat } } t ⟨seq, 0x0F⟩
              ⟨.ok, [BitVec.ofNat 8 (min n.toNat s.notices.records.length)]
                  ++ (s.notices.records.take n.toNat).flatMap (fun x =>
                    [x.stamp.extractLsb' 8 8, x.stamp.extractLsb' 0 8,
                      match x.kind with
                        | .lineError => 0x01 | .overlength => 0x02 | .poolExhausted => 0x03 | .descriptorExhausted => 0x04
                        | .routeMiss => 0x05 | .destOmitted => 0x06 | .allowanceRetired => 0x07
                        | .allowanceReloaded => 0x08 | .exchangeClosed => 0x09 | .lateReply => 0x0A
                        | .standinLost => 0x0B | .txAbandoned => 0x0C | .purged => 0x0D | .portFaulted => 0x0E
                        | .restarted => 0x0F | .mgmtRejected => 0x10 | .mgmtOverrun => 0x11,
                      BitVec.ofNat 8 ((if x.port.isSome then 1 else 0) + (if x.address.isSome then 2 else 0)
                        + (if x.detail.isSome then 4 else 0)),
                      match x.port with | some q => BitVec.ofNat 8 q.number | none => 0x00,
                      match x.address with | some a => a | none => 0x00,
                      match x.detail with | some w => w.extractLsb' 8 8 | none => 0x00,
                      match x.detail with | some w => w.extractLsb' 0 8 | none => 0x00])
                  ++ [s.notices.nextStamp.extractLsb' 8 8, s.notices.nextStamp.extractLsb' 0 8]⟩)
        ∧ (n.toNat = 0 ∨ 24 < n.toNat → Replied s t ⟨seq, 0x0F⟩ ⟨.range, []⟩))

/-- SETTINGS_WRITE of a record in the ranges of Table 10-15 replaces the settings whole, each field from its place in
the record; a new divisor restarts the millisecond tick count at 0, the same divisor does not, and no record's time
changes. A record with a length, a reason position, a check code, a divisor or a break-restart length out of range is
refused RANGE and takes nothing (R51, R184, R192). -/
def Obligations.SettingsWriteReply : Prop :=
  ∀ (seq : Chr) (cs : List Chr) (s : State) (divisor breakLength : Nat), CellsCanonical s → Ready s ⟨seq, 0x10⟩ →
    cs.length = 18 → divisor = (cs.getD 14 0).toNat * 256 + (cs.getD 15 0).toNat →
    breakLength = (cs.getD 16 0).toNat * 256 + (cs.getD 17 0).toNat →
    ∃ t, exec (.settingsWrite seq cs) s = .next t
      ∧ (∀ k : CheckKind,
          2 ≤ (cs.getD 0 0).toNat → (cs.getD 0 0).toNat ≤ 8 →
          1 ≤ (cs.getD 1 0).toNat → (cs.getD 1 0).toNat + 1 ≤ (cs.getD 0 0).toNat →
          cs.getD 2 0 = (match k with | .noCheck => 0x00 | .sum8 => 0x01 | .crc16 => 0x02) →
          1000 ≤ divisor → divisor ≤ 16000 → 10 ≤ breakLength → breakLength ≤ 1000 →
          Replied { s with
            agent := { s.agent with settings :=
              ⟨(cs.getD 0 0).toNat, (cs.getD 1 0).toNat, k, (cs.drop 3).take 8, cs.getD 11 0, cs.getD 12 0, cs.getD 13 0,
                divisor, breakLength⟩ }
            exchanges := { s.exchanges with
              tickCount := if divisor = s.agent.settings.divisor then s.exchanges.tickCount else 0 } }
            t ⟨seq, 0x10⟩ ⟨.ok, []⟩)
      ∧ ((cs.getD 0 0).toNat < 2 ∨ 8 < (cs.getD 0 0).toNat
            ∨ (cs.getD 1 0).toNat < 1 ∨ (cs.getD 0 0).toNat ≤ (cs.getD 1 0).toNat ∨ 2 < (cs.getD 2 0).toNat
            ∨ divisor < 1000 ∨ 16000 < divisor ∨ breakLength < 10 ∨ 1000 < breakLength →
          Replied s t ⟨seq, 0x10⟩ ⟨.range, []⟩)

/-- SETTINGS_READ returns the settings record as it stands, in the 18 characters of Table 10-15, and changes nothing but
what sending a reply changes (R185, R192). -/
def Obligations.SettingsReadReply : Prop :=
  ∀ (seq : Chr) (s : State), CellsCanonical s → Ready s ⟨seq, 0x11⟩ →
    ∃ t, exec (.settingsRead seq) s = .next t ∧ Replied s t ⟨seq, 0x11⟩ ⟨.ok, s.agent.settings.chars⟩
      ∧ s.agent.settings.chars.length = 18
      ∧ (∀ x : Settings, x = s.agent.settings → x.filler.length = 8 →
          x.chars =
            [BitVec.ofNat 8 x.length, BitVec.ofNat 8 x.reasonPos,
              match x.check with | .noCheck => 0x00 | .sum8 => 0x01 | .crc16 => 0x02]
            ++ x.filler
            ++ [x.reasonNoAnswer, x.reasonDamaged, x.reasonUnreachable,
              BitVec.ofNat 8 (x.divisor / 256), BitVec.ofNat 8 (x.divisor % 256),
              BitVec.ofNat 8 (x.breakLength / 256), BitVec.ofNat 8 (x.breakLength % 256)])
      ∧ (s.agent.settings.inRanges = true → s.agent.settings.filler.length = 8 →
          parseSettings s.agent.settings.chars = some s.agent.settings)

/-! ### Characters on the wire and records in replies -/

/-- What a port sends, it receives: the levels of a character of any format, sampled through the first stop bit, give a
report without error of the value its width sends, the marker bit its framing has, and the parity bit it was sent with;
the character has 9 to 13 bits and its parity counts out (R139, R141, R143, R145, R148). -/
def Obligations.SentCharacterIsReceived : Prop :=
  ∀ (f : FormatRecord) (c : Chr) (marker : Bool),
    f.report ((f.levels c marker).take (f.firstStop + 1)) =
        { value := f.fit c, marker := f.hasMarker && marker, parityBit := f.hasParity && f.parityBit c marker, error := none }
    ∧ (f.levels c marker).length = f.charBits ∧ 9 ≤ f.charBits ∧ f.charBits ≤ 13
    ∧ (f.parity ≠ .noParity →
        (countOnes (f.dataBits c) + (f.hasMarker && marker).toNat + (f.parityBit c marker).toNat) % 2 =
          if f.parity = .even then 0 else 1)

/-- A management telegram whose last two characters are the CRC of all that goes before them runs through the CRC to
0000h, and every reply built is such a telegram (R174, R175). -/
def Obligations.CrcResidueIsZero : Prop :=
  (∀ cs : List Chr, crc16 (cs ++ twoChars (crc16 cs)) = 0)
  ∧ ∀ (s : State) (id : RequestId) (a : Answer), crc16 (s.replyChars id a) = 0
    ∧ (s.replyChars id a).length = 7 + a.data.length

/-- The records of chapter 10 read back as what they were written from: format records and settings records in range,
and route entries as a write may carry them (R192, R193, R194, Tables 10-9, 10-10, 10-15). The characters of a format
record and of a route entry are those of Tables 10-10 and 10-9, 00h where a field is absent; those of the settings
record are in SettingsReadReply. -/
def Obligations.RecordsRoundTrip : Prop :=
  (∀ f : FormatRecord, f.inRanges = true → parseFormat f.chars = some f)
  ∧ (∀ x : Settings, x.inRanges = true → x.filler.length = 8 → parseSettings x.chars = some x)
  ∧ (∀ e : RouteEntry, (∀ r, e.reply = some r → 1 ≤ r.window ∧ r.window ≤ 4000) → e.retired = false →
      (∀ al, e.allowance = some al → 1 ≤ al.count ∧ al.count ≤ 65535 ∧ 1 ≤ al.reload ∧ al.reload ≤ 65535) →
      parseRoute e.chars = some e)
  ∧ (∀ f : FormatRecord, f.chars =
      [match f.width with | .seven => 0x07 | .eight => 0x08,
        match f.parity with | .noParity => 0x00 | .even => 0x01 | .odd => 0x02,
        match f.stopBits with | .one => 0x01 | .two => 0x02,
        match f.framing with | .idleLine => 0x00 | .addressBit => 0x01,
        BitVec.ofNat 8 f.endGap, BitVec.ofNat 8 f.guardGap, BitVec.ofNat 8 f.overlap, BitVec.ofNat 8 f.retryLimit,
        BitVec.ofNat 8 f.abandonLimit, BitVec.ofNat 8 (f.stuckLimit / 256), BitVec.ofNat 8 (f.stuckLimit % 256),
        match f.miss with | .drop => 0x00 | .dropNote => 0x01 | .passToTrunk => 0x02,
        BitVec.ofNat 8 f.pattern.length]
      ++ f.pattern.flatMap (fun n => [BitVec.ofNat 8 (n / 256), BitVec.ofNat 8 (n % 256)]))
  ∧ (∀ e : RouteEntry,
      e.chars =
        [BitVec.ofNat 8 e.arrival.number, e.address,
          BitVec.ofNat 8 ((e.destinationList.map fun p => 2 ^ p.number).sum),
          BitVec.ofNat 8 ((if e.egress.isSome then 1 else 0)
            + (match e.reply with | none => 0 | some r => if r.standIn then 6 else 2)
            + (match e.allowance with
                | none => 0
                | some al => (match al.mode with | .retire => 8 | .reload => 24) + (if e.retired then 32 else 0))),
          match e.egress with | some a => a | none => 0x00]
        ++ [match e.reply with | some r => r.window | none => 0,
            match e.allowance with | some al => al.count | none => 0,
            match e.allowance with | some al => al.reload | none => 0].flatMap
              (fun n => [BitVec.ofNat 8 (n / 256), BitVec.ofNat 8 (n % 256)]))

/-! ### Time -/

/-- With no command waiting, a step runs the event that is due, as the command of that event, and where none is due it
is one tick of REFCK (the model's choice, entry 3), and the event of the lowest port that has a character due comes
first (entry 4). One tick: the millisecond base counts to the divisor and starts again; at each boundary, and at no
other tick, every AWAITING record and every LAPSED record without late hold loses one millisecond, and a port at space
gains one in its space count, which is compared with its limit there, the result kept in a flag (the model's choice,
entry 24). A quiet port's mark span grows by one where no stop bit is still running (when a line is quiet, and the rest
of the stop bit, are read from R115: entry 15), and the space span of a port at space (R51, R115, R127, R130 to R132).
In a character received, bit `k` lasts the pattern's entry `k` modulo its length, and its level is sampled floor(entry /
2) ticks after its first tick; where that tick is the start bit's and reads mark a false start is due, and where it is
the first stop bit's the character's report (R136, R140 to R143). A character sent is paced just so by its own count,
and the next one begins on the tick after its last stop bit where its echo has compared good (R145, R146). -/
def Obligations.TickKeepsTime : Prop :=
  (∀ s : State, s.pending = [] →
      (s.due = none → step s = .next s.tick) ∧ ∀ c, s.due = some c → step s = exec c s)
  ∧ (∀ s : State,
      (s.exchanges.tickCount + 1 < s.agent.settings.divisor →
        s.tick.exchanges = { s.exchanges with tickCount := s.exchanges.tickCount + 1 }
          ∧ ∀ p, (s.tick.port p).spaceCount = (s.port p).spaceCount)
      ∧ (s.agent.settings.divisor ≤ s.exchanges.tickCount + 1 →
        s.tick.exchanges.tickCount = 0
          ∧ s.tick.exchanges.records = s.exchanges.records.map (fun r =>
              if r.state = .awaiting ∨ r.state = .lapsed ∧ r.lateHold = false then { r with remaining := r.remaining - 1 }
              else r)
          ∧ ∀ p, (s.port p).spaceCount ≤ 65535 → (s.tick.port p).spaceCount =
              if (s.port p).rxPin = .space then min 65535 ((s.port p).spaceCount + 1) else (s.port p).spaceCount)
      ∧ (∀ p, s.agent.settings.divisor ≤ s.exchanges.tickCount + 1 → (s.port p).rxPin = .space →
          (p = .trunk → s.trunk.breakState = .armed →
            (s.tick.port p).limitReached = decide (s.agent.settings.breakLength ≤ (s.tick.port p).spaceCount))
          ∧ (p ≠ .trunk → (s.port p).admin = .active →
            (s.tick.port p).limitReached = decide ((s.port p).format.stuckLimit ≤ (s.tick.port p).spaceCount)))
      ∧ (∀ p, (s.port p).quiet = true → (s.port p).charTail = 0 →
          (s.tick.port p).markSpan = (s.port p).markSpan + 1)
      ∧ (∀ p, (s.port p).quiet = true → (s.port p).charTail ≠ 0 →
          (s.tick.port p).markSpan = (s.port p).markSpan ∧ (s.tick.port p).charTail = (s.port p).charTail - 1)
      ∧ (∀ p, (s.port p).rxPin = .space →
          (s.tick.port p).markSpan = (s.port p).markSpan ∧ (s.tick.port p).spaceSpan = (s.port p).spaceSpan + 1)
      ∧ s.tick.trunk = { s.trunk with
          breakState := if (s.port .trunk).rxPin = .mark then .armed else s.trunk.breakState }
      ∧ s.tick.pool = s.pool ∧ s.tick.notices = s.notices ∧ s.tick.routes = s.routes ∧ s.tick.agent = s.agent
      ∧ s.tick.straps = s.straps
      ∧ ∀ p, s.tick.scheduler p = s.scheduler p ∧ (s.tick.port p).receiver = (s.port p).receiver
          ∧ (s.tick.port p).rxPin = (s.port p).rxPin ∧ (s.tick.port p).monitor = (s.port p).monitor
          ∧ (s.tick.port p).completions = (s.port p).completions ∧ (s.tick.port p).counters = (s.port p).counters
          ∧ (s.tick.port p).format = (s.port p).format ∧ (s.tick.port p).admin = (s.port p).admin)
  -- a character received
  ∧ (∀ (s : State) (p : Port) (f : FormatRecord) (bit k e : Nat) (ls : List Level),
      (s.port p).charReceiver = .inCharacter f bit k ls → f.pattern[bit % f.pattern.length]? = some e →
      (s.tick.port p).charReceiver =
        .inCharacter f (if k + 1 < e then bit else bit + 1) (if k + 1 < e then k + 1 else 0)
          (if k = e / 2 then ls ++ [(s.port p).rxPin] else ls)
      ∧ (k = e / 2 → bit = 0 ∨ bit = f.firstStop →
          (∀ q, q.number < p.number → (s.port q).charReceiver = .awaitMark ∨ (s.port q).charReceiver = .awaitStart) →
          (bit = 0 → (s.port p).rxPin = .mark → s.due = some (.falseStart p))
            ∧ (bit = f.firstStop → ∃ v m pb err, s.due = some (.characterReport p v m pb err)
                ∧ f.report (ls ++ [(s.port p).rxPin]) = ⟨v, m, pb, err⟩)))
  ∧ (∀ (s : State) (p : Port),
      ((s.port p).charReceiver = .awaitStart → (s.tick.port p).charReceiver = .awaitStart)
      ∧ ((s.port p).charReceiver = .awaitMark →
          (s.tick.port p).charReceiver = if (s.port p).rxPin = .mark then .awaitStart else .awaitMark))
  -- a character sent
  ∧ (∀ (s : State) (p : Port) (f : FormatRecord) (i bit k e : Nat) (ls : List Level) (cut : Bool),
      (s.port p).transmitter = .sending f i ls bit k cut → bit < ls.length →
      f.pattern[bit % f.pattern.length]? = some e →
      (s.port p).txPin = ls.getD bit .mark
      ∧ (k + 1 < e → (s.tick.port p).transmitter = .sending f i ls bit (k + 1) cut)
      ∧ (e ≤ k + 1 → bit + 1 < ls.length → (s.tick.port p).transmitter = .sending f i ls (bit + 1) 0 cut)
      ∧ (e ≤ k + 1 → bit + 1 = ls.length →
          (cut = true → (s.tick.port p).transmitter = .sending f i ls (bit + 1) 0 true)
          ∧ (∀ x rest n, cut = false → (s.scheduler p).phase = .onLine → (s.scheduler p).queue = x :: rest →
              (s.port p).receiver = .echo n →
              (i < n → i + 1 < (s.pool.descriptor x.desc).length →
                (s.tick.port p).transmitter =
                  .sending f (i + 1) (f.levels (s.pool.charAt x.desc (i + 1)) false) 0 0 false)
              ∧ (n ≤ i ∨ (s.pool.descriptor x.desc).length ≤ i + 1 →
                (s.tick.port p).transmitter = .sending f i ls (bit + 1) 0 false))))
  ∧ (∀ (s : State) (p : Port), (s.port p).transmitter = .rest →
      (s.tick.port p).transmitter = .rest ∧ (s.port p).txPin = .mark)

/-! ### Invariants -/

/-- Every step keeps the stored characters in their canonical form, the Notice Queue within 32 records, the trunk ACTIVE,
8-bit and without PASS_TO_TRUNK, every counter within 16 bits, and no line RELEASED that reads space (R127). -/
def Obligations.StepKeepsBounds : Prop :=
  (∀ s t : State, step s = .next t →
      (CellsCanonical s → CellsCanonical t) ∧ (NoticesBounded s → NoticesBounded t))
  ∧ (∀ s t : State, step s = .next t →
      (TrunkInService s → TrunkInService t) ∧ (CountersBounded s → CountersBounded t))
  ∧ (∀ s t : State, step s = .next t → SpaceIsSeen s → SpaceIsSeen t)

/-- Every step keeps format and settings records, in force or waiting, within their ranges. -/
def Obligations.StepKeepsRecordsInRange : Prop :=
  ∀ s t : State, step s = .next t → RecordsInRange s → RecordsInRange t

/-- Every step keeps the exchange table at most 16 records, at most one on a pair. With this, and with ports that are
down silent, every step keeps the open records that target a port within its overlap depth, on the trunk within the old
depth while a pending one waits (R49, R52, R153). -/
def Obligations.StepKeepsExchangesSound : Prop :=
  (∀ s t : State, step s = .next t → ExchangesSound s → ExchangesSound t)
  ∧ (∀ s t : State, step s = .next t → ExchangesSound s → DownPortsSilent s → OverlapBounded s → OverlapBounded t)

/-- Every step keeps a DISABLED or FAULTED port silent: an empty queue, a receiver OFF, the target of no open record. -/
def Obligations.StepKeepsDownPortsSilent : Prop :=
  ∀ s t : State, step s = .next t → DownPortsSilent s → DownPortsSilent t

/-- Every step keeps both route banks in key order, within 128 entries, legal and with sound allowances. -/
def Obligations.StepKeepsBanksSound : Prop :=
  ∀ s t : State, step s = .next t → BanksSound s → BanksSound t

/-- Every step keeps queues within their sizes, and descriptor 0 in at most one entry, on the trunk, counted by its
reference count. With these, and with ports that are down silent, every step keeps the pool in order: the free list
rising, every general cell free or in one descriptor, and every general descriptor counted by the entries that name it
and the one holder it has while RECEIVING (R76, R77, R78). -/
def Obligations.StepKeepsQueuesSound : Prop :=
  (∀ s t : State, step s = .next t → QueuesSound s → QueuesSound t)
  ∧ (∀ s t : State, step s = .next t → QueuesSound s → DownPortsSilent s → PoolSound s → PoolSound t)
end

