-- ==== Sys2Proof/Laws/State.lean ====
section
/-! SUPPORT. One lemma for each field of the state per update: what a change of a port, a scheduler, a counter or the
notices leaves as it was. -/

namespace Sys2Proof.Machine

/-! ### Ports by name -/

@[simp] theorem PerPort.get_set_same {α : Type} (v : PerPort α) (p : Port) (x : α) : (v.set p x).get p = x := by
  cases p <;> rfl

theorem PerPort.get_set_other {α : Type} (v : PerPort α) {p q : Port} (x : α) (h : q ≠ p) :
    (v.set p x).get q = v.get q := by
  cases p <;> cases q <;> first | rfl | exact absurd rfl h

@[simp] theorem PerPort.set_get {α : Type} (v : PerPort α) (p : Port) : v.set p (v.get p) = v := by cases p <;> rfl

@[simp] theorem PerPort.set_set {α : Type} (v : PerPort α) (p : Port) (x y : α) : (v.set p x).set p y = v.set p y := by
  cases p <;> rfl

theorem PerPort.set_comm {α : Type} (v : PerPort α) {p q : Port} (x y : α) (h : p ≠ q) :
    (v.set p x).set q y = (v.set q y).set p x := by
  cases p <;> cases q <;> first | rfl | exact absurd rfl h

@[simp] theorem PerPort.get_map {α β : Type} (f : α → β) (v : PerPort α) (p : Port) :
    (v.map f).get p = f (v.get p) := by
  cases p <;> rfl

theorem PerPort.ext_get {α : Type} {v w : PerPort α} (h : ∀ p, v.get p = w.get p) : v = w := by
  cases v; cases w
  have a := h .trunk; have b := h .b1; have c := h .b2; have d := h .b3; have e := h .b4
  simp only [PerPort.get] at a b c d e
  subst a b c d e; rfl

@[simp] theorem Port.mem_all (p : Port) : p ∈ Port.all := by cases p <;> decide

/-! ### A port of a state with other blocks changed -/

@[simp] theorem State.port_mk (a : PerPort PortState) (b : TrunkState) (c : Pool) (d : RouteUnit) (e : ExchangeMonitor)
    (f : NoticeQueue) (g : Agent) (h : Straps) (i : List Instr) (p : Port) :
    (State.mk a b c d e f g h i).port p = a.get p := rfl

@[simp] theorem State.get_ports (s : State) (p : Port) : s.ports.get p = s.port p := rfl

/-- The scheduler of a port, read from the port. -/
theorem State.scheduler_def (s : State) (p : Port) : s.scheduler p = (s.port p).scheduler := rfl

/-! ### setPort -/

@[simp] theorem State.setPort_port (s : State) (p : Port) (x : PortState) : (s.setPort p x).port p = x :=
  PerPort.get_set_same _ _ _

theorem State.setPort_port_other (s : State) {p q : Port} (x : PortState) (h : q ≠ p) :
    (s.setPort p x).port q = s.port q :=
  PerPort.get_set_other _ _ h

@[simp] theorem State.setPort_same (s : State) (p : Port) : s.setPort p (s.port p) = s := by
  cases s; simp [State.setPort, State.port]

@[simp] theorem State.setPort_setPort (s : State) (p : Port) (x y : PortState) :
    (s.setPort p x).setPort p y = s.setPort p y := by
  simp [State.setPort]

@[simp] theorem State.setPort_trunk (s : State) (p : Port) (x : PortState) : (s.setPort p x).trunk = s.trunk := rfl
@[simp] theorem State.setPort_pool (s : State) (p : Port) (x : PortState) : (s.setPort p x).pool = s.pool := rfl
@[simp] theorem State.setPort_routes (s : State) (p : Port) (x : PortState) : (s.setPort p x).routes = s.routes := rfl
@[simp] theorem State.setPort_exchanges (s : State) (p : Port) (x : PortState) :
    (s.setPort p x).exchanges = s.exchanges := rfl
@[simp] theorem State.setPort_notices (s : State) (p : Port) (x : PortState) : (s.setPort p x).notices = s.notices := rfl
@[simp] theorem State.setPort_agent (s : State) (p : Port) (x : PortState) : (s.setPort p x).agent = s.agent := rfl
@[simp] theorem State.setPort_straps (s : State) (p : Port) (x : PortState) : (s.setPort p x).straps = s.straps := rfl
@[simp] theorem State.setPort_pending (s : State) (p : Port) (x : PortState) : (s.setPort p x).pending = s.pending := rfl

/-! ### onPort -/

theorem State.onPort_eq (s : State) (p : Port) (f : PortState → PortState) :
    s.onPort p f = s.setPort p (f (s.port p)) := rfl

@[simp] theorem State.onPort_port (s : State) (p : Port) (f : PortState → PortState) :
    (s.onPort p f).port p = f (s.port p) :=
  State.setPort_port _ _ _

theorem State.onPort_port_other (s : State) {p q : Port} (f : PortState → PortState) (h : q ≠ p) :
    (s.onPort p f).port q = s.port q :=
  State.setPort_port_other _ _ h

@[simp] theorem State.onPort_onPort (s : State) (p : Port) (f g : PortState → PortState) :
    (s.onPort p f).onPort p g = s.onPort p (g ∘ f) := by
  simp [State.onPort]

@[simp] theorem State.onPort_trunk (s : State) (p : Port) (f : PortState → PortState) : (s.onPort p f).trunk = s.trunk := rfl
@[simp] theorem State.onPort_pool (s : State) (p : Port) (f : PortState → PortState) : (s.onPort p f).pool = s.pool := rfl
@[simp] theorem State.onPort_routes (s : State) (p : Port) (f : PortState → PortState) : (s.onPort p f).routes = s.routes := rfl
@[simp] theorem State.onPort_exchanges (s : State) (p : Port) (f : PortState → PortState) :
    (s.onPort p f).exchanges = s.exchanges := rfl
@[simp] theorem State.onPort_notices (s : State) (p : Port) (f : PortState → PortState) :
    (s.onPort p f).notices = s.notices := rfl
@[simp] theorem State.onPort_agent (s : State) (p : Port) (f : PortState → PortState) : (s.onPort p f).agent = s.agent := rfl
@[simp] theorem State.onPort_straps (s : State) (p : Port) (f : PortState → PortState) : (s.onPort p f).straps = s.straps := rfl
@[simp] theorem State.onPort_pending (s : State) (p : Port) (f : PortState → PortState) :
    (s.onPort p f).pending = s.pending := rfl

/-! ### onScheduler, setPhase and count are changes of one port -/

theorem State.onScheduler_eq (s : State) (p : Port) (f : Scheduler → Scheduler) :
    s.onScheduler p f = s.setPort p { s.port p with scheduler := f (s.scheduler p) } := rfl

theorem State.setPhase_eq (s : State) (p : Port) (ph : Phase) :
    s.setPhase p ph = s.setPort p { s.port p with scheduler := { s.scheduler p with phase := ph } } := rfl

theorem State.count_eq (s : State) (p : Port) (f : Counters → Counters) :
    s.count p f = s.setPort p { s.port p with counters := f (s.port p).counters } := rfl

@[simp] theorem State.onScheduler_scheduler (s : State) (p : Port) (f : Scheduler → Scheduler) :
    (s.onScheduler p f).scheduler p = f (s.scheduler p) := by
  simp [State.scheduler, State.onScheduler]

theorem State.onScheduler_port_other (s : State) {p q : Port} (f : Scheduler → Scheduler) (h : q ≠ p) :
    (s.onScheduler p f).port q = s.port q :=
  State.onPort_port_other _ _ h

@[simp] theorem State.onScheduler_trunk (s : State) (p : Port) (f : Scheduler → Scheduler) :
    (s.onScheduler p f).trunk = s.trunk := rfl
@[simp] theorem State.onScheduler_pool (s : State) (p : Port) (f : Scheduler → Scheduler) :
    (s.onScheduler p f).pool = s.pool := rfl
@[simp] theorem State.onScheduler_routes (s : State) (p : Port) (f : Scheduler → Scheduler) :
    (s.onScheduler p f).routes = s.routes := rfl
@[simp] theorem State.onScheduler_exchanges (s : State) (p : Port) (f : Scheduler → Scheduler) :
    (s.onScheduler p f).exchanges = s.exchanges := rfl
@[simp] theorem State.onScheduler_notices (s : State) (p : Port) (f : Scheduler → Scheduler) :
    (s.onScheduler p f).notices = s.notices := rfl
@[simp] theorem State.onScheduler_agent (s : State) (p : Port) (f : Scheduler → Scheduler) :
    (s.onScheduler p f).agent = s.agent := rfl
@[simp] theorem State.onScheduler_straps (s : State) (p : Port) (f : Scheduler → Scheduler) :
    (s.onScheduler p f).straps = s.straps := rfl
@[simp] theorem State.onScheduler_pending (s : State) (p : Port) (f : Scheduler → Scheduler) :
    (s.onScheduler p f).pending = s.pending := rfl

/-! ### post -/

theorem State.post_eq (s : State) (k : NoticeKind) (port : Option Port) (a : Option Chr) (d : Option Word16) :
    s.post k port a d = { s with notices := s.notices.post k port a d } := rfl

@[simp] theorem State.post_port (s : State) (k : NoticeKind) (port : Option Port) (a : Option Chr) (d : Option Word16)
    (p : Port) : (s.post k port a d).port p = s.port p := rfl
@[simp] theorem State.post_scheduler (s : State) (k : NoticeKind) (port : Option Port) (a : Option Chr)
    (d : Option Word16) (p : Port) : (s.post k port a d).scheduler p = s.scheduler p := rfl
@[simp] theorem State.post_trunk (s : State) (k : NoticeKind) (port : Option Port) (a : Option Chr) (d : Option Word16) :
    (s.post k port a d).trunk = s.trunk := rfl
@[simp] theorem State.post_pool (s : State) (k : NoticeKind) (port : Option Port) (a : Option Chr) (d : Option Word16) :
    (s.post k port a d).pool = s.pool := rfl
@[simp] theorem State.post_routes (s : State) (k : NoticeKind) (port : Option Port) (a : Option Chr) (d : Option Word16) :
    (s.post k port a d).routes = s.routes := rfl
@[simp] theorem State.post_exchanges (s : State) (k : NoticeKind) (port : Option Port) (a : Option Chr)
    (d : Option Word16) : (s.post k port a d).exchanges = s.exchanges := rfl
@[simp] theorem State.post_notices (s : State) (k : NoticeKind) (port : Option Port) (a : Option Chr) (d : Option Word16) :
    (s.post k port a d).notices = s.notices.post k port a d := rfl
@[simp] theorem State.post_agent (s : State) (k : NoticeKind) (port : Option Port) (a : Option Chr) (d : Option Word16) :
    (s.post k port a d).agent = s.agent := rfl
@[simp] theorem State.post_straps (s : State) (k : NoticeKind) (port : Option Port) (a : Option Chr) (d : Option Word16) :
    (s.post k port a d).straps = s.straps := rfl
@[simp] theorem State.post_pending (s : State) (k : NoticeKind) (port : Option Port) (a : Option Chr) (d : Option Word16) :
    (s.post k port a d).pending = s.pending := rfl

@[simp] theorem NoticeQueue.post_nextStamp (q : NoticeQueue) (k : NoticeKind) (port : Option Port) (a : Option Chr)
    (d : Option Word16) : (q.post k port a d).nextStamp = q.nextStamp + 1 := rfl

/-! ### Descriptors -/

@[simp] theorem Pool.setDescriptor_same (q : Pool) (d : DescNo) (x : Descriptor) : (q.setDescriptor d x).descriptor d = x := by
  simp [Pool.setDescriptor, Pool.descriptor]

theorem Pool.setDescriptor_other (q : Pool) {d e : DescNo} (x : Descriptor) (h : e ≠ d) :
    (q.setDescriptor d x).descriptor e = q.descriptor e := by
  have : d.val ≠ e.val := fun k => h (Fin.ext k.symm)
  simp [Pool.setDescriptor, Pool.descriptor, this]

@[simp] theorem Pool.setDescriptor_cells (q : Pool) (d : DescNo) (x : Descriptor) : (q.setDescriptor d x).cells = q.cells := rfl
@[simp] theorem Pool.setDescriptor_free (q : Pool) (d : DescNo) (x : Descriptor) : (q.setDescriptor d x).free = q.free := rfl

@[simp] theorem Pool.putChar_free (q : Pool) (d : DescNo) (i : Nat) (c : Chr) : (q.putChar d i c).free = q.free := by
  unfold Pool.putChar; split <;> rfl

@[simp] theorem Pool.putChar_descriptor (q : Pool) (d e : DescNo) (i : Nat) (c : Chr) :
    (q.putChar d i c).descriptor e = q.descriptor e := by
  unfold Pool.putChar; split <;> rfl

@[simp] theorem Pool.addRef_cells (q : Pool) (d : DescNo) : (q.addRef d).cells = q.cells := rfl
@[simp] theorem Pool.addRef_free (q : Pool) (d : DescNo) : (q.addRef d).free = q.free := rfl
@[simp] theorem Pool.release_cells (q : Pool) (d : DescNo) : (q.release d).cells = q.cells := rfl

@[simp] theorem Pool.dropRef_cells (q : Pool) (d : DescNo) : (q.dropRef d).cells = q.cells := by
  unfold Pool.dropRef; simp only; split <;> rfl

@[simp] theorem Pool.giveUp_cells (q : Pool) (d : DescNo) : (q.giveUp d).cells = q.cells := by
  unfold Pool.giveUp; simp only; split <;> rfl

@[simp] theorem Pool.recordDamage_cells (q : Pool) (d : DescNo) (x : Option Damage) : (q.recordDamage d x).cells = q.cells := rfl

end Sys2Proof.Machine
end

