-- ==== Sys2Proof/Laws/Storage.lean ====
section
/-! SUPPORT. The laws of the stored characters: read after write, what a write leaves, and the canonical form; and what
each operation on a descriptor's storage does. -/

namespace Sys2Proof.Machine

/-! ### One character -/

theorem cellsWfFrom_mono {lo lo' : Nat} (h : lo' ≤ lo) : ∀ {m : List Host.Cell}, cellsWfFrom lo m = true → cellsWfFrom lo' m = true
  | [], _ => rfl
  | (a, c) :: rest, w => by
    simp only [cellsWfFrom, Bool.and_eq_true, decide_eq_true_eq] at w ⊢
    exact ⟨⟨by omega, w.1.2⟩, w.2⟩

/-- Below every listed address everything reads as unwritten. -/
theorem readCell_below {lo a : Nat} (h : a < lo) : ∀ {m : List Host.Cell}, cellsWfFrom lo m = true → readCell m a = unwritten
  | [], _ => rfl
  | (b, c) :: rest, w => by
    simp only [cellsWfFrom, Bool.and_eq_true, decide_eq_true_eq] at w
    have hne : a ≠ b := by omega
    simp only [readCell, hne, if_false]
    exact readCell_below (by omega : a < b + 1) w.2

theorem readCell_cellEntry_append (a b : Nat) (c : Chr) (m : List Host.Cell) (h : b ≠ a) :
    readCell (cellEntry a c ++ m) b = readCell m b := by
  unfold cellEntry; split
  · rfl
  · simp [readCell, h]

/-- Reading another address than the one written gives what it gave before. -/
theorem readCell_writeCell_other {a b : Nat} (c : Chr) (h : b ≠ a) :
    ∀ m : List Host.Cell, readCell (writeCell m a c) b = readCell m b
  | [] => by simpa [writeCell] using readCell_cellEntry_append a b c [] h
  | (e, d) :: rest => by
    unfold writeCell
    split
    · exact readCell_cellEntry_append a b c _ h
    · split
      · next heq => rw [readCell_cellEntry_append a b c _ h]; simp [readCell, heq ▸ h]
      · simp only [readCell, readCell_writeCell_other c h rest]

theorem readCell_cellEntry_self {a lo : Nat} (c : Chr) {m : List Host.Cell} (w : cellsWfFrom lo m = true) (h : a < lo) :
    readCell (cellEntry a c ++ m) a = c := by
  unfold cellEntry; split
  · next hc => simp [readCell_below h w, hc]
  · simp [readCell]

/-- In the canonical form, reading the address just written gives the character written. -/
theorem readCell_writeCell_self (a : Nat) (c : Chr) :
    ∀ {lo : Nat} {m : List Host.Cell}, cellsWfFrom lo m = true → readCell (writeCell m a c) a = c
  | _, [], _ => by simpa [writeCell] using readCell_cellEntry_self (m := []) (lo := a + 1) c rfl (by omega)
  | _, (e, d) :: rest, w => by
    simp only [cellsWfFrom, Bool.and_eq_true, decide_eq_true_eq] at w
    unfold writeCell
    split
    · next hlt =>
      exact readCell_cellEntry_self (lo := e) c (by simp [cellsWfFrom, w.1.2, w.2]) hlt
    · split
      · next heq => exact readCell_cellEntry_self (lo := e + 1) c w.2 (by omega)
      · next hne =>
        simp only [readCell, hne, if_false]
        exact readCell_writeCell_self a c w.2

theorem cellsWfFrom_cellEntry {a lo : Nat} (c : Chr) {m : List Host.Cell} (h : lo ≤ a) (w : cellsWfFrom (a + 1) m = true) :
    cellsWfFrom lo (cellEntry a c ++ m) = true := by
  unfold cellEntry; split
  · exact cellsWfFrom_mono (by omega) w
  · next hc => simp [cellsWfFrom, h, hc, w]

theorem writeCell_wfFrom (a : Nat) (c : Chr) :
    ∀ {lo : Nat} {m : List Host.Cell}, lo ≤ a → cellsWfFrom lo m = true → cellsWfFrom lo (writeCell m a c) = true
  | _, [], h, _ => by simpa [writeCell] using cellsWfFrom_cellEntry (m := []) c h rfl
  | _, (e, d) :: rest, h, w => by
    simp only [cellsWfFrom, Bool.and_eq_true, decide_eq_true_eq] at w
    unfold writeCell
    split
    · next hlt =>
      refine cellsWfFrom_cellEntry c h ?_
      simp only [cellsWfFrom, Bool.and_eq_true, decide_eq_true_eq]
      exact ⟨⟨by omega, w.1.2⟩, w.2⟩
    · split
      · next heq => exact cellsWfFrom_cellEntry c h (heq ▸ w.2)
      · next hne =>
        simp only [cellsWfFrom, Bool.and_eq_true, decide_eq_true_eq]
        exact ⟨⟨w.1.1, w.1.2⟩, writeCell_wfFrom a c (by omega) w.2⟩

/-- A write keeps the canonical form. -/
theorem writeCell_wf {m : List Host.Cell} (a : Nat) (c : Chr) (w : cellsWf m = true) : cellsWf (writeCell m a c) = true :=
  writeCell_wfFrom a c (Nat.zero_le _) w

/-! ### A run of characters -/

theorem writeCells_wf (cs : List Chr) : ∀ {m : List Host.Cell} (a : Nat), cellsWf m = true → cellsWf (writeCells m a cs) = true := by
  induction cs with
  | nil => intro m a w; exact w
  | cons c rest ih => intro m a w; exact ih (a + 1) (writeCell_wf a c w)

/-- Outside the addresses written everything reads as before. -/
theorem readCell_writeCells_other (cs : List Chr) :
    ∀ (m : List Host.Cell) (a b : Nat), b < a ∨ a + cs.length ≤ b → readCell (writeCells m a cs) b = readCell m b := by
  induction cs with
  | nil => intros; rfl
  | cons c rest ih =>
    intro m a b h
    simp only [List.length_cons] at h
    rw [writeCells, ih _ _ _ (by omega), readCell_writeCell_other c (by omega)]

/-- Each character of a run is read back at its place. -/
theorem readCell_writeCells_self (cs : List Chr) :
    ∀ (m : List Host.Cell) (a i : Nat), cellsWf m = true → (h : i < cs.length) → readCell (writeCells m a cs) (a + i) = cs[i] := by
  induction cs with
  | nil => intro _ _ i _ h; exact absurd h (Nat.not_lt_zero i)
  | cons c rest ih =>
    intro m a i w h
    cases i with
    | zero =>
      rw [writeCells, readCell_writeCells_other _ _ _ _ (Or.inl (by omega))]
      exact readCell_writeCell_self a c w
    | succ i =>
      rw [writeCells]
      have := ih (writeCell m a c) (a + 1) i (writeCell_wf a c w) (by simpa using h)
      rw [show a + (i + 1) = a + 1 + i by omega, this]; rfl

/-! ### The pool's operations keep the canonical form -/

theorem Pool.putChar_wf (q : Pool) (d : DescNo) (i : Nat) (c : Chr) (w : cellsWf q.cells = true) :
    cellsWf (q.putChar d i c).cells = true := by
  unfold Pool.putChar; split
  · exact writeCell_wf _ _ w
  · exact w

theorem Pool.appendChar_wf (q : Pool) (d : DescNo) (c : Chr) (w : cellsWf q.cells = true) :
    cellsWf (q.appendChar d c).cells = true := Pool.putChar_wf _ _ _ _ w

theorem Pool.takeCell_cells {q q' : Pool} {c : CellNo} (h : q.takeCell = some (c, q')) : q'.cells = q.cells := by
  unfold Pool.takeCell at h; split at h
  · cases h
  · cases h; rfl

theorem Pool.storeBody_wf (q : Pool) (d : DescNo) (c : Chr) (w : cellsWf q.cells = true) :
    cellsWf (q.storeBody d c).2.cells = true := by
  unfold Pool.storeBody
  simp only
  split
  · exact w
  · split
    · split
      · exact w
      · next h => exact Pool.appendChar_wf _ _ _ (by simpa [Pool.takeCell_cells h] using w)
    · exact Pool.appendChar_wf _ _ _ w

theorem Pool.openTelegram_wf {q q' : Pool} {p : Port} {a : Chr} {x : Option Damage} {d : DescNo} {b : Bool}
    (h : q.openTelegram p a x = some (d, b, q')) (w : cellsWf q.cells = true) : cellsWf q'.cells = true := by
  unfold Pool.openTelegram at h
  split at h
  · cases h
  · split at h
    · next h' =>
      cases h
      exact Pool.putChar_wf _ _ _ _ (by simpa [Pool.takeCell_cells h'] using w)
    · cases h; exact w

theorem Pool.writeReply_wf (q : Pool) (a : Chr) (r : List Chr) (w : cellsWf q.cells = true) :
    cellsWf (q.writeReply a r).cells = true := writeCells_wf r 0 w

theorem Pool.fillStandIn_wf (q : Pool) (d : DescNo) (c : CellNo) (r : ExchangeRecord) (cs : List Chr) (wide : Bool)
    (w : cellsWf q.cells = true) : cellsWf (q.fillStandIn d c r cs wide).cells = true := writeCells_wf cs _ w

/-- The reset state's stored characters are in the canonical form. -/
theorem reset_cellsWf : cellsWf State.reset.pool.cells = true := rfl

/-! ### References leave the telegrams as they are -/

/-- A changed descriptor with the same length and cells, over the same characters, stores the same telegram. -/
theorem Pool.telegram_congr {q q' : Pool} {d : DescNo} (hc : q'.cells = q.cells)
    (hl : (q'.descriptor d).length = (q.descriptor d).length) (hs : (q'.descriptor d).cells = (q.descriptor d).cells) :
    q'.telegram d = q.telegram d := by
  unfold Pool.telegram
  rw [hl]
  apply List.map_congr_left
  intro i _
  unfold Pool.charAt Pool.charAddress
  rw [hs, hc]

@[simp] theorem Pool.addRef_telegram (q : Pool) (d e : DescNo) : (q.addRef d).telegram e = q.telegram e := by
  by_cases h : e = d
  · subst h; exact Pool.telegram_congr rfl (by simp [Pool.addRef]) (by simp [Pool.addRef])
  · exact Pool.telegram_congr rfl (by simp [Pool.addRef, Pool.setDescriptor_other _ _ h])
      (by simp [Pool.addRef, Pool.setDescriptor_other _ _ h])

/-! ### A telegram stored in the cells of a reply, or in one cell -/

/-- The address of character `i` of descriptor 0 with its eight cells is `i` (R81, R88). -/
theorem replyCells_address {q : Pool} {d : DescNo} (h : (q.descriptor d).cells = replyCells) {i : Nat} (hi : i < 256) :
    q.charAddress d i = some i := by
  have hd : i / 32 < 8 := by omega
  have key : ∀ k : Fin 8, (replyCells[k.val]?).map Fin.val = some k.val := by decide
  have hk := key ⟨i / 32, hd⟩
  unfold Pool.charAddress
  rw [h]
  simp only at hk
  cases hc : replyCells[i / 32]? with
  | none => rw [hc] at hk; simp at hk
  | some c =>
    rw [hc] at hk
    simp only [Option.map_some, Option.some.injEq] at hk
    simp only [Config.cellSize, Option.map_some, Option.some.injEq]
    omega

/-- The reply written is the telegram descriptor 0 stores (R88, R175). -/
theorem Pool.writeReply_telegram (q : Pool) (a : Chr) (r : List Chr) (w : cellsWf q.cells = true) (h : r.length ≤ 256) :
    (q.writeReply a r).telegram 0 = r := by
  unfold Pool.telegram
  have hl : ((q.writeReply a r).descriptor 0).length = r.length := by simp [Pool.writeReply]
  have hc : ((q.writeReply a r).descriptor 0).cells = replyCells := by simp [Pool.writeReply]
  rw [hl]
  apply List.ext_getElem (by simp)
  intro i h1 h2
  simp only [List.getElem_map, List.getElem_range]
  unfold Pool.charAt
  rw [replyCells_address hc (by omega)]
  have := readCell_writeCells_self r q.cells 0 i w h2
  simpa [Pool.writeReply] using this

end Sys2Proof.Machine
end

