-- ==== Sys2Proof/Laws/Ops.lean ====
section
/-! SUPPORT. What each shared operation can do, once: its frame and, where a caller needs it, its result. -/

namespace Sys2Proof.Machine

/-! ### Deciding a head changes its own port's line and scheduler, and perhaps opens a record -/

/-- `t` differs from `s` at most in the exchange table and in what an attempt touches of port `p`. -/
structure AttemptOnly (p : Port) (s t : State) : Prop where
  others : OtherPortsKept p s t
  line : LineKept (s.port p) (t.port p)
  queue : (t.scheduler p).queue = (s.scheduler p).queue
  pool : t.pool = s.pool
  blocks : BlocksKept s t

theorem LineKept.refl (x : PortState) : LineKept x x := rfl

theorem LineKept.trans {x y z : PortState} (a : LineKept x y) (b : LineKept y z) : LineKept x z := by
  unfold LineKept at *; rw [b, a]

theorem BlocksKept.refl (s : State) : BlocksKept s s := ⟨rfl, rfl, rfl, rfl, rfl, rfl⟩

theorem BlocksKept.trans {s t u : State} (a : BlocksKept s t) (b : BlocksKept t u) : BlocksKept s u := by
  obtain ⟨a1, a2, a3, a4, a5, a6⟩ := a
  obtain ⟨b1, b2, b3, b4, b5, b6⟩ := b
  exact ⟨b1.trans a1, b2.trans a2, b3.trans a3, b4.trans a4, b5.trans a5, b6.trans a6⟩

theorem OtherPortsKept.refl (p : Port) (s : State) : OtherPortsKept p s s := fun _ _ => rfl

theorem OtherPortsKept.trans {p : Port} {s t u : State} (a : OtherPortsKept p s t) (b : OtherPortsKept p t u) :
    OtherPortsKept p s u := fun q h => (b q h).trans (a q h)

theorem AttemptOnly.refl (p : Port) (s : State) : AttemptOnly p s s :=
  ⟨.refl p s, .refl _, rfl, rfl, .refl s⟩

theorem AttemptOnly.trans {p : Port} {s t u : State} (a : AttemptOnly p s t) (b : AttemptOnly p t u) : AttemptOnly p s u :=
  ⟨a.others.trans b.others, a.line.trans b.line, b.queue.trans a.queue, b.pool.trans a.pool, a.blocks.trans b.blocks⟩

/-- Setting one port, its line kept and its queue kept. -/
theorem AttemptOnly.setPort {p : Port} {s : State} {x : PortState} (h : LineKept (s.port p) x)
    (q : x.scheduler.queue = (s.scheduler p).queue) : AttemptOnly p s (s.setPort p x) :=
  ⟨fun _ hq => State.setPort_port_other s x hq, by simpa using h, by simpa [State.scheduler] using q, rfl, .refl s⟩

theorem closeTelegram_attemptOnly (s : State) (p : Port) : AttemptOnly p s (s.closeTelegram p) := by
  unfold State.closeTelegram; split
  · exact AttemptOnly.setPort rfl rfl
  · exact .refl p s

@[simp] theorem closeTelegram_exchanges (s : State) (p : Port) : (s.closeTelegram p).exchanges = s.exchanges := by
  unfold State.closeTelegram; split <;> rfl

theorem startAttempt_attemptOnly (s : State) (p : Port) : AttemptOnly p s (s.startAttempt p) := by
  unfold State.startAttempt; split
  · exact .refl p s
  · exact (closeTelegram_attemptOnly s p).trans (AttemptOnly.setPort rfl rfl)

@[simp] theorem startAttempt_exchanges (s : State) (p : Port) : (s.startAttempt p).exchanges = s.exchanges := by
  unfold State.startAttempt; split <;> simp

theorem setPhase_attemptOnly (s : State) (p : Port) (ph : Phase) : AttemptOnly p s (s.setPhase p ph) :=
  AttemptOnly.setPort rfl rfl

/-- A changed exchange table is within what an attempt may touch. -/
theorem AttemptOnly.exchanges {p : Port} {s : State} (m : ExchangeMonitor) : AttemptOnly p s { s with exchanges := m } :=
  ⟨fun _ _ => rfl, rfl, rfl, rfl, ⟨rfl, rfl, rfl, rfl, rfl, rfl⟩⟩

theorem firstAttempt_attemptOnly (s : State) (p : Port) (e : QueueEntry) : AttemptOnly p s (s.firstAttempt p e) := by
  unfold State.firstAttempt; split
  · exact startAttempt_attemptOnly s p
  · split
    · exact (AttemptOnly.exchanges _).trans (startAttempt_attemptOnly _ p)
    · exact setPhase_attemptOnly s p _

theorem decideHead_attemptOnly (s : State) (p : Port) : AttemptOnly p s (s.decideHead p) := by
  unfold State.decideHead; split
  · exact AttemptOnly.setPort rfl rfl
  · split
    · exact setPhase_attemptOnly s p _
    · split
      · exact firstAttempt_attemptOnly s p _
      · exact setPhase_attemptOnly s p _

theorem PortState.lineFree_iff (x : PortState) : x.lineFree = true ↔ x.monitor = .released ∧ x.driverEnable = false := by
  simp [PortState.lineFree]

/-- On a line that is not free no attempt starts: the head is held or RESERVED (R97, R147). -/
theorem decideHead_waits (s : State) (p : Port) (h : (s.port p).lineFree = false) :
    s.decideHead p = s.setPhase p .headHeld ∨ s.decideHead p = s.setPhase p .reserved
      ∨ (s.scheduler p).queue = [] := by
  unfold State.decideHead; split
  · next he => exact .inr (.inr he)
  · split
    · exact .inl rfl
    · simp [h]

/-- A head without an exchange request opens nothing (R100). -/
theorem decideHead_exchanges (s : State) (p : Port) (h : ∀ e rest, (s.scheduler p).queue = e :: rest → e.request = none) :
    (s.decideHead p).exchanges = s.exchanges := by
  unfold State.decideHead; split
  · rfl
  · next e rest he =>
    split
    · rfl
    · split
      · simp [State.firstAttempt, h e rest he]
      · rfl

/-! ### Joining a queue (R85, R95) -/

/-- The parts of `enqueue` every caller needs. -/
theorem enqueue_spec (s : State) (p : Port) (e : QueueEntry) :
    OtherPortsKept p s (s.enqueue p e) ∧ LineKept (s.port p) ((s.enqueue p e).port p)
      ∧ ((s.enqueue p e).scheduler p).queue = (s.scheduler p).queue ++ [e]
      ∧ (s.enqueue p e).pool = s.pool.addRef e.desc ∧ BlocksKept s (s.enqueue p e) := by
  unfold State.enqueue
  simp only
  have base : OtherPortsKept p s
      (({ s with pool := s.pool.addRef e.desc } : State).onScheduler p fun c => { c with queue := c.queue ++ [e] }) :=
    fun q hq => by rw [State.onScheduler_port_other _ _ hq]; rfl
  split
  · have h := decideHead_attemptOnly
      (({ s with pool := s.pool.addRef e.desc } : State).onScheduler p fun c => { c with queue := c.queue ++ [e] }) p
    refine ⟨base.trans h.others, LineKept.trans ?_ h.line, ?_, h.pool, BlocksKept.trans ?_ h.blocks⟩
    · simp only [State.onScheduler, State.onPort_port]; rfl
    · rw [h.queue]; simp [State.onScheduler, State.scheduler]
    · exact ⟨rfl, rfl, rfl, rfl, rfl, rfl⟩
  · refine ⟨base, ?_, ?_, rfl, ⟨rfl, rfl, rfl, rfl, rfl, rfl⟩⟩
    · simp only [State.onScheduler, State.onPort_port]; rfl
    · simp [State.onScheduler, State.scheduler]

/-- An entry without an exchange request leaves the table as it is where the queue it joins holds none either. -/
theorem enqueue_exchanges (s : State) (p : Port) (e : QueueEntry) (h : e.request = none) :
    (s.enqueue p e).exchanges = s.exchanges := by
  unfold State.enqueue
  simp only
  split
  · next hq =>
    rw [decideHead_exchanges]
    · rfl
    · intro e' rest he'
      simp only [State.onScheduler_scheduler] at he'
      have hnil : (s.scheduler p).queue = [] := by simpa using hq
      have : (({ s with pool := s.pool.addRef e.desc } : State).scheduler p).queue = [] := hnil
      rw [this] at he'
      simp only [List.nil_append, List.cons.injEq] at he'
      rw [← he'.1]; exact h
  · rfl

/-! ### Building a reply (R175) -/

/-- The reply to a request of at most 249 data characters is built, kept and queued, and nothing else changes. -/
theorem buildReply_replied (s : State) (id : RequestId) (a : Answer) (w : CellsCanonical s) (h : a.data.length ≤ 249) :
    Replied s (s.buildReply id a) id a := by
  have hlen : (s.replyChars id a).length ≤ 256 := by
    simp [State.replyChars, twoChars]; omega
  unfold State.buildReply State.queueReply
  generalize hu : ({ s with
      pool := s.pool.writeReply s.mgmtAddress (s.replyChars id a)
      agent := { s.agent with replay := some id, executing := none } } : State) = u
  obtain ⟨ho, hl, hq, hp, hb⟩ := enqueue_spec u .trunk { desc := 0, line := u.mgmtAddress, request := none }
  have hx := enqueue_exchanges u .trunk { desc := 0, line := u.mgmtAddress, request := none } rfl
  have hup : u.pool = s.pool.writeReply s.mgmtAddress (s.replyChars id a) := by rw [← hu]
  have hm : u.mgmtAddress = s.mgmtAddress := by rw [← hu]; rfl
  simp only [hup] at hp
  have htel := Pool.writeReply_telegram s.pool s.mgmtAddress (s.replyChars id a) w hlen
  refine ⟨?_, ?_, ?_, ?_, ?_, ?_, ?_, ?_, ?_, ?_, ?_, ?_, ?_, ?_, ?_⟩
  · rw [hp, Pool.addRef_telegram, htel]
  · rw [hp]
    simp [Pool.addRef, Pool.writeReply]
  · intro b hbd
    rw [hp]
    exact readCell_writeCells_other _ _ _ _ (by omega)
  · rw [hp]; rfl
  · intro d hd
    rw [hp]
    simp only [Pool.addRef]
    rw [Pool.setDescriptor_other _ _ hd]
    simp only [Pool.writeReply]
    rw [Pool.setDescriptor_other _ _ hd]; rfl
  · rw [hb.2.2.2.1, ← hu]
  · rw [hq, hm, ← hu]; rfl
  · rw [← hu] at hl ⊢; exact hl
  · intro q hqn; rw [ho q hqn, ← hu]; rfl
  · rw [hb.1, ← hu]
  · rw [hb.2.1, ← hu]
  · rw [hx, ← hu]
  · rw [hb.2.2.1, ← hu]
  · rw [hb.2.2.2.2.1, ← hu]
  · rw [hb.2.2.2.2.2, ← hu]

/-! ### The agent's gates (R177, R178) -/

theorem takeRequest_busy (s : State) (id : RequestId) (params : List Chr) (h : s.agentBusy = true) :
    s.takeRequest id params = s.post .mgmtOverrun (some .trunk) none none := by
  simp [State.takeRequest, h]

theorem takeRequest_replay (s : State) (id : RequestId) (params : List Chr) (h : s.agentBusy = false)
    (r : s.agent.replay = some id) : s.takeRequest id params = s.queueReply := by
  simp [State.takeRequest, h, r]

theorem takeRequest_ready (s : State) (id : RequestId) (params : List Chr) (h : Ready s id) :
    s.takeRequest id params = s.dispatch id params := by
  simp [State.takeRequest, h.1, h.2]

/-! ### The turnaround of a request (R196) -/

/-- Only the trunk takes management requests (R32). -/
theorem requestOpen_branch {s : State} {p : Port} (h : p ≠ .trunk) : s.requestOpen p = false := by
  cases p <;> first | exact absurd rfl h | rfl

/-- The open telegram is a request exactly where it is undamaged, held, and to the management address (R32). -/
theorem requestOpen_trunk (s : State) :
    s.requestOpen .trunk = true ↔ ∃ d b, (s.port .trunk).receiver = .inTelegram d b
      ∧ (s.pool.descriptor d).damage = none ∧ (s.pool.descriptor d).address = s.mgmtAddress := by
  unfold State.requestOpen openCompletion
  cases (s.port .trunk).receiver <;> simp

/-- The end gap changes its own port alone: receiver, completions and mark span (R117, R122). -/
theorem reachEndGap_spec (s : State) (p : Port) :
    s.reachEndGap p = s.setPort p { s.port p with
      receiver := ((s.reachEndGap p).port p).receiver, completions := ((s.reachEndGap p).port p).completions,
      markSpan := max (s.port p).markSpan ((s.port p).format.span (s.port p).format.endGap), charTail := 0 } := by
  unfold State.reachEndGap
  cases h : (s.port p).receiver <;>
    simp [State.closeTelegram, State.onPort, PortState.spanReached, openCompletion, h]

theorem takeHanded_none {s : State} (h : s.agent.requests = []) : s.takeHanded = s := by
  simp [State.takeHanded, h]

/-- One completion on the trunk and no request waiting: the completion is decided, then what it hands over (R27, R32). -/
theorem serveTrunk_one {s : State} {c : Completion} (h : (s.port .trunk).completions = [c]) :
    s.serveTrunk = (s.takeCompletion .trunk).agent.requests.foldl (fun t _ => t.takeHanded) (s.takeCompletion .trunk) := by
  simp [State.serveTrunk, h]

/-- A management command is the request it stands for. -/
theorem exec_request (c : Instr) (id : RequestId) (params : List Chr) (s : State) (h : c.requestOf = some (id, params)) :
    exec c s = .next (s.takeRequest id params) := by
  cases c <;> simp only [Instr.requestOf, Option.some.injEq, Prod.mk.injEq, reduceCtorEq] at h <;>
    (obtain ⟨rfl, rfl⟩ := h; rfl)

/-- A request that is ready, of a known command with its number of parameters, is executed. -/
theorem exec_ready {s : State} {c : Instr} {k : Command} {id : RequestId} {params : List Chr}
    (hr : c.requestOf = some (id, params)) (h : Ready s id) (hk : Command.ofCode id.code = some k)
    (hc : k.countOk params = true) : exec c s = .next (s.execute k id params) := by
  rw [exec_request c id params s hr, takeRequest_ready s id params h, State.dispatch, hk]; simp [hc]

/-- Which command was executing before does not show once its reply is built. -/
theorem Replied.of_executing {u t : State} {id : RequestId} {a : Answer} (x : Option RequestId)
    (h : Replied { u with agent := { u.agent with executing := x } } t id a) : Replied u t id a := by
  obtain ⟨h1, h2, h3, h4, h5, h6, h7, h8, h9, h10, h11, h12, h13, h14, h15⟩ := h
  exact ⟨h1, h2, h3, h4, h5, h6, h7, h8, h9, h10, h11, h12, h13, h14, h15⟩

/-- The reply to a command that was executing. -/
theorem buildReply_executing {u : State} {id : RequestId} {a : Answer} {x : Option RequestId} (w : CellsCanonical u)
    (h : a.data.length ≤ 249) :
    Replied u (({ u with agent := { u.agent with executing := x } } : State).buildReply id a) id a :=
  .of_executing x (buildReply_replied _ _ _ w h)

/-- A refusal carries no data, so it always fits. -/
theorem buildReply_refused {u : State} {id : RequestId} {r : Result} {x : Option RequestId} (w : CellsCanonical u) :
    Replied u (({ u with agent := { u.agent with executing := x } } : State).buildReply id (Answer.refuse r)) id
      (Answer.refuse r) := buildReply_executing w (Nat.zero_le _)

end Sys2Proof.Machine
end

