-- ==== Sys2Proof/Laws/Cascade.lean ====
section
/-! SUPPORT. What closing exchanges, offering entries and deciding heads can reach, said once: `Ripple`. Every cascade of
these operations is a chain of ripples. -/

namespace Sys2Proof.Machine

/-- A port as a ripple may leave it: its overlap depth, and what an attempt or a queue entry touches. -/
def RippleKept (x y : PortState) : Prop :=
  y = { x with
    format := { x.format with overlap := y.format.overlap }
    receiver := y.receiver, completions := y.completions, transmitter := y.transmitter, scheduler := y.scheduler }

theorem RippleKept.refl (x : PortState) : RippleKept x x := rfl

theorem RippleKept.trans {x y z : PortState} (a : RippleKept x y) (b : RippleKept y z) : RippleKept x z := by
  unfold RippleKept at *; rw [b, a]

theorem LineKept.ripple {x y : PortState} (h : LineKept x y) : RippleKept x y := by
  unfold RippleKept; unfold LineKept at h; rw [h]

/-- What closing an exchange, offering an entry, deciding a head, and every chain of them can change: the pool, the
notices, the records and opening sequence, the trunk's overlap depth, and of a port what an attempt or an entry
touches. -/
structure Ripple (s t : State) : Prop where
  ports : ∀ p, RippleKept (s.port p) (t.port p)
  formats : ∀ p, p ≠ .trunk → (t.port p).format = (s.port p).format
  trunk : t.trunk = { s.trunk with pendingDepth := t.trunk.pendingDepth }
  tickCount : t.exchanges.tickCount = s.exchanges.tickCount
  routes : t.routes = s.routes
  agent : t.agent = s.agent
  straps : t.straps = s.straps
  pending : t.pending = s.pending

theorem Ripple.refl (s : State) : Ripple s s :=
  ⟨fun _ => rfl, fun _ _ => rfl, rfl, rfl, rfl, rfl, rfl, rfl⟩

theorem Ripple.trans {s t u : State} (a : Ripple s t) (b : Ripple t u) : Ripple s u :=
  ⟨fun p => (a.ports p).trans (b.ports p), fun p h => (b.formats p h).trans (a.formats p h), by rw [b.trunk, a.trunk],
    b.tickCount.trans a.tickCount, b.routes.trans a.routes, b.agent.trans a.agent, b.straps.trans a.straps,
    b.pending.trans a.pending⟩

/-- What a ripple leaves of a port, field by field. -/
theorem Ripple.kept {s t : State} (h : Ripple s t) (p : Port) :
    (t.port p).admin = (s.port p).admin ∧ (t.port p).lastFault = (s.port p).lastFault
      ∧ (t.port p).monitor = (s.port p).monitor ∧ (t.port p).rxPin = (s.port p).rxPin
      ∧ (t.port p).counters = (s.port p).counters ∧ (t.port p).markSpan = (s.port p).markSpan
      ∧ (t.port p).charReceiver = (s.port p).charReceiver ∧ (t.port p).format.width = (s.port p).format.width
      ∧ (t.port p).format.miss = (s.port p).format.miss := by
  have k := h.ports p
  unfold RippleKept at k
  rw [k]; exact ⟨rfl, rfl, rfl, rfl, rfl, rfl, rfl, rfl, rfl⟩

/-- A chain of ripples over a list. -/
theorem Ripple.foldl {α : Type} {f : State → α → State} (h : ∀ s a, Ripple s (f s a)) :
    ∀ (l : List α) (s : State), Ripple s (l.foldl f s)
  | [], s => .refl s
  | a :: l, s => (h s a).trans (Ripple.foldl h l (f s a))

/-! ### The blocks a ripple may change freely -/

theorem Ripple.notices (s : State) (q : NoticeQueue) : Ripple s { s with notices := q } :=
  ⟨fun _ => rfl, fun _ _ => rfl, rfl, rfl, rfl, rfl, rfl, rfl⟩

theorem Ripple.pool (s : State) (q : Pool) : Ripple s { s with pool := q } :=
  ⟨fun _ => rfl, fun _ _ => rfl, rfl, rfl, rfl, rfl, rfl, rfl⟩

theorem Ripple.exchanges (s : State) (m : ExchangeMonitor) (h : m.tickCount = s.exchanges.tickCount) :
    Ripple s { s with exchanges := m } :=
  ⟨fun _ => rfl, fun _ _ => rfl, rfl, h, rfl, rfl, rfl, rfl⟩

theorem Ripple.post (s : State) (k : NoticeKind) (port : Option Port) (a : Option Chr) (d : Option Word16) :
    Ripple s (s.post k port a d) := .notices s _

theorem Ripple.setPort {s : State} {p : Port} {x : PortState} (h : RippleKept (s.port p) x)
    (f : p ≠ .trunk → x.format = (s.port p).format) : Ripple s (s.setPort p x) := by
  refine ⟨fun q => ?_, fun q hq => ?_, rfl, rfl, rfl, rfl, rfl, rfl⟩
  · by_cases e : q = p
    · subst e; rw [State.setPort_port]; exact h
    · rw [State.setPort_port_other _ _ e]; exact .refl _
  · by_cases e : q = p
    · subst e; rw [State.setPort_port]; exact f hq
    · rw [State.setPort_port_other _ _ e]

/-- A change of one port that touches its line and scheduler only. -/
theorem Ripple.onPort {s : State} {p : Port} {f : PortState → PortState} (h : LineKept (s.port p) (f (s.port p))) :
    Ripple s (s.onPort p f) := by
  refine Ripple.setPort h.ripple fun _ => ?_
  unfold LineKept at h; rw [h]

theorem Ripple.onScheduler (s : State) (p : Port) (f : Scheduler → Scheduler) : Ripple s (s.onScheduler p f) :=
  .onPort rfl

/-- A change of the pool and of one scheduler. -/
theorem Ripple.poolScheduler (s : State) (q : Pool) (p : Port) (f : Scheduler → Scheduler) :
    Ripple s (({ s with pool := q } : State).onScheduler p f) := (Ripple.pool s q).trans (.onScheduler _ p f)

theorem Ripple.ite {s a b : State} {c : Prop} [Decidable c] (ha : Ripple s a) (hb : Ripple s b) :
    Ripple s (if c then a else b) := by split <;> assumption

/-! ### The exchange table keeps its millisecond base -/

@[simp] theorem ExchangeMonitor.removePair_tickCount (m : ExchangeMonitor) (p : Port) (a : Chr) :
    (m.removePair p a).tickCount = m.tickCount := rfl

@[simp] theorem ExchangeMonitor.change_tickCount (m : ExchangeMonitor) (p : Port) (a : Chr)
    (f : ExchangeRecord → ExchangeRecord) : (m.change p a f).tickCount = m.tickCount := rfl

theorem ExchangeMonitor.opening_tickCount {m m' : ExchangeMonitor} {depth : Nat} {p : Port} {e : QueueEntry}
    {q : ExchangeRequest} (h : m.opening depth p e q = some m') : m'.tickCount = m.tickCount := by
  unfold ExchangeMonitor.opening at h
  split at h
  · cases h
  · split at h
    · cases h
    · simp only at h
      split at h
      · cases h; rfl
      · split at h
        · cases h
        · cases h; rfl

/-! ### Deciding heads -/

theorem closeTelegram_ripple (s : State) (p : Port) : Ripple s (s.closeTelegram p) := by
  unfold State.closeTelegram; split
  · exact .onPort rfl
  · exact .refl s

theorem startAttempt_ripple (s : State) (p : Port) : Ripple s (s.startAttempt p) := by
  unfold State.startAttempt; split
  · exact .refl s
  · exact (closeTelegram_ripple s p).trans (.onPort rfl)

theorem setPhase_ripple (s : State) (p : Port) (ph : Phase) : Ripple s (s.setPhase p ph) :=
  .onScheduler s p _

theorem firstAttempt_ripple (s : State) (p : Port) (e : QueueEntry) : Ripple s (s.firstAttempt p e) := by
  unfold State.firstAttempt; split
  · exact startAttempt_ripple s p
  · split
    · next h => exact (Ripple.exchanges s _ (ExchangeMonitor.opening_tickCount h)).trans (startAttempt_ripple _ p)
    · exact setPhase_ripple s p _

theorem decideHead_ripple (s : State) (p : Port) : Ripple s (s.decideHead p) := by
  unfold State.decideHead; split
  · exact .onPort rfl
  · split
    · exact setPhase_ripple s p _
    · split
      · exact firstAttempt_ripple s p _
      · exact setPhase_ripple s p _

theorem redecidePort_ripple (s : State) (p : Port) : Ripple s (s.redecidePort p) := by
  unfold State.redecidePort; split
  · exact decideHead_ripple s p
  · exact .refl s

theorem redecide_ripple (s : State) : Ripple s s.redecide := Ripple.foldl redecidePort_ripple _ s

/-- A pending depth that settles changes the trunk's overlap depth and nothing else. -/
theorem settleDepth_ripple (s : State) : Ripple s s.settleDepth := by
  unfold State.settleDepth; split
  · exact .refl s
  · split
    · refine Ripple.trans (t := { s with trunk := { s.trunk with pendingDepth := none } })
        ⟨fun _ => rfl, fun _ _ => rfl, rfl, rfl, rfl, rfl, rfl, rfl⟩ ?_
      exact Ripple.setPort rfl fun h => absurd rfl h
    · exact .refl s

theorem tableChanged_ripple (s : State) : Ripple s s.tableChanged :=
  (settleDepth_ripple s).trans (redecide_ripple _)

/-- No head is held. -/
def NoHeadHeld (s : State) : Prop := ∀ q, (s.scheduler q).phase ≠ .headHeld

/-- The signal to decide again finds nothing to do where no head is held. -/
theorem redecide_idle {s : State} (h : NoHeadHeld s) : s.redecide = s := by
  have one : ∀ p, s.redecidePort p = s := fun p => by unfold State.redecidePort; rw [if_neg (h p)]
  unfold State.redecide Port.all
  simp only [List.foldl_cons, List.foldl_nil, one]

theorem settleDepth_idle {s : State} (h : s.trunk.pendingDepth = none) : s.settleDepth = s := by
  unfold State.settleDepth; rw [h]

/-- Nothing follows a change of the table where no head is held and no depth waits. -/
theorem tableChanged_idle {s : State} (h : NoHeadHeld s) (d : s.trunk.pendingDepth = none) : s.tableChanged = s := by
  unfold State.tableChanged; rw [settleDepth_idle d, redecide_idle h]

/-! ### Offers -/

theorem enqueue_ripple (s : State) (p : Port) (e : QueueEntry) : Ripple s (s.enqueue p e) := by
  unfold State.enqueue
  simp only
  have j := Ripple.poolScheduler s (s.pool.addRef e.desc) p fun c => { c with queue := c.queue ++ [e] }
  split
  · exact j.trans (decideHead_ripple _ p)
  · exact j

theorem popHead_ripple (s : State) (p : Port) (e : QueueEntry) : Ripple s (s.popHead p e) :=
  .poolScheduler s _ p _

theorem offerTo_ripple (s : State) (p : Port) (e : QueueEntry) (wide : Bool) : Ripple s (s.offerTo p e wide).1 := by
  unfold State.offerTo; split
  · exact enqueue_ripple s p e
  · exact .post s _ _ _ _

theorem offerAll_ripple (e : QueueEntry) (wide : Bool) : ∀ (ps : List Port) (s : State), Ripple s (s.offerAll e wide ps).1
  | [], s => .refl s
  | p :: ps, s => (offerTo_ripple s p e wide).trans (offerAll_ripple e wide ps _)

/-! ### Closing exchanges -/

theorem loseStandIn_ripple (s : State) (r : ExchangeRecord) (why : LossReason) : Ripple s (s.loseStandIn r why) :=
  .post s _ _ _ _

theorem standIn_ripple (s : State) (r : ExchangeRecord) (o : CloseOutcome) : Ripple s (s.standIn r o) := by
  unfold State.standIn; split
  · exact loseStandIn_ripple s r _
  · exact loseStandIn_ripple s r _
  · simp only
    split
    · exact ((Ripple.pool s _).trans (enqueue_ripple _ _ _)).trans (.pool _ _)
    · exact ((Ripple.pool s _).trans (.pool _ _)).trans (loseStandIn_ripple _ r _)

theorem closeExchange_ripple (s : State) (r : ExchangeRecord) (o : CloseOutcome) : Ripple s (s.closeExchange r o) := by
  unfold State.closeExchange
  simp only
  have a : Ripple s (if r.standIn then (s.post .exchangeClosed (some r.target) (some r.line) (some o.code)).standIn r o
      else s.post .exchangeClosed (some r.target) (some r.line) (some o.code)) := by
    split
    · exact (Ripple.post s _ _ _ _).trans (standIn_ripple _ r o)
    · exact .post s _ _ _ _
  refine (a.trans (Ripple.exchanges _ _ ?_)).trans (tableChanged_ripple _)
  cases o <;> rfl

theorem freeRecord_ripple (s : State) (p : Port) (a : Chr) : Ripple s (s.freeRecord p a) :=
  (Ripple.exchanges s (s.exchanges.removePair p a) rfl).trans (tableChanged_ripple _)

theorem requestLost_ripple (s : State) (p : Port) (d : DescNo) : Ripple s (s.requestLost p d) := by
  unfold State.requestLost; split
  · exact closeExchange_ripple s _ _
  · exact .refl s

theorem targetLost_ripple (s : State) (p : Port) : Ripple s (s.targetLost p) := by
  unfold State.targetLost
  extract_lets doomed closed m
  have h : Ripple s closed := Ripple.foldl (fun t r => closeExchange_ripple t r .unreachable) doomed s
  exact (h.trans (Ripple.exchanges closed _ (by rfl))).trans (tableChanged_ripple _)

theorem clearQueue_ripple (s : State) (p : Port) : Ripple s (s.clearQueue p) := by
  have e := Ripple.poolScheduler s ((s.scheduler p).queue.foldl (fun pool e => pool.dropRef e.desc) s.pool) p
    fun c => { c with queue := [], phase := .empty, attempts := 0, backoffGap := 0 }
  unfold State.clearQueue
  dsimp only
  split
  · exact e
  · exact e.trans (.post _ _ _ _ _)

/-! ### Building a reply -/

/-- A reply ripples and changes the agent's replay memory and executing command. -/
theorem buildReply_ripple (s : State) (id : RequestId) (a : Answer) :
    Ripple { s with agent := { s.agent with replay := some id, executing := none } } (s.buildReply id a) := by
  unfold State.buildReply State.queueReply
  generalize hu : ({ s with
      pool := s.pool.writeReply s.mgmtAddress (s.replyChars id a)
      agent := { s.agent with replay := some id, executing := none } } : State) = u
  refine Ripple.trans ?_ (enqueue_ripple u .trunk { desc := 0, line := u.mgmtAddress, request := none })
  rw [← hu]
  exact ⟨fun _ => rfl, fun _ _ => rfl, rfl, rfl, rfl, rfl, rfl, rfl⟩

theorem queueReply_ripple (s : State) : Ripple s s.queueReply := enqueue_ripple s _ _

end Sys2Proof.Machine
end

