-- ==== Sys2Proof/Laws/Exchanges.lean ====
section
/-! SUPPORT. The exchange table: what finding, removing, changing and opening a record do where a pair holds at most one. -/

namespace Sys2Proof.Machine

/-- At most one record stands on a pair (R49). -/
abbrev OnePerPair (rs : List ExchangeRecord) : Prop := rs.Pairwise fun a b => ¬(a.target = b.target ∧ a.line = b.line)

theorem ExchangeRecord.onPair_iff (r : ExchangeRecord) (p : Port) (a : Chr) :
    r.onPair p a = true ↔ r.target = p ∧ r.line = a := by simp [ExchangeRecord.onPair]

theorem ExchangeMonitor.find_none {m : ExchangeMonitor} {p : Port} {a : Chr} (h : m.find p a = none) :
    ∀ r ∈ m.records, r.onPair p a = false := by
  intro r hr
  have := List.find?_eq_none.mp h r hr
  simpa using this

theorem ExchangeMonitor.find_some {m : ExchangeMonitor} {p : Port} {a : Chr} {r : ExchangeRecord}
    (h : m.find p a = some r) : r ∈ m.records ∧ r.target = p ∧ r.line = a := by
  unfold ExchangeMonitor.find at h
  have k := List.find?_some h
  exact ⟨List.mem_of_find?_eq_some h, (ExchangeRecord.onPair_iff r p a).mp k⟩

/-- Where a pair holds one record, being on its pair is being that record. -/
theorem onPair_eq {rs : List ExchangeRecord} (h : OnePerPair rs) {r x : ExchangeRecord} (hr : r ∈ rs) (hx : x ∈ rs) :
    x.onPair r.target r.line = decide (x = r) := by
  induction rs with
  | nil => cases hr
  | cons y ys ih =>
    have hy := List.pairwise_cons.mp h
    rcases List.mem_cons.mp hr with rfl | hr' <;> rcases List.mem_cons.mp hx with rfl | hx'
    · simp [ExchangeRecord.onPair]
    · have k := hy.1 x hx'
      have ne : x ≠ r := fun e => k ⟨by rw [e], by rw [e]⟩
      have : ¬(x.target = r.target ∧ x.line = r.line) := fun e => k ⟨e.1.symm, e.2.symm⟩
      simp only [ExchangeRecord.onPair, this, ne]
    · have k := hy.1 r hr'
      have ne : x ≠ r := fun e => k ⟨by rw [e], by rw [e]⟩
      simp only [ExchangeRecord.onPair, k, ne]
    · exact ih hy.2 hr' hx'

/-- Removing the pair of a record removes that record and no other. -/
theorem ExchangeMonitor.removePair_eq {m : ExchangeMonitor} (h : OnePerPair m.records) {r : ExchangeRecord}
    (hr : r ∈ m.records) :
    m.removePair r.target r.line = { m with records := m.records.filter fun x => decide (x ≠ r) } := by
  unfold ExchangeMonitor.removePair
  congr 1
  apply List.filter_congr
  intro x hx
  rw [onPair_eq h hr hx]; simp

/-- Changing the record of a pair changes that record and no other. -/
theorem ExchangeMonitor.change_eq {m : ExchangeMonitor} (h : OnePerPair m.records) {r : ExchangeRecord}
    (hr : r ∈ m.records) (f : ExchangeRecord → ExchangeRecord) :
    m.change r.target r.line f = { m with records := m.records.map fun x => if x = r then f r else x } := by
  unfold ExchangeMonitor.change
  congr 1
  apply List.map_congr_left
  intro x hx
  rw [onPair_eq h hr hx]
  by_cases e : x = r
  · subst e; simp
  · simp [e]

theorem ExchangeMonitor.removePair_none {m : ExchangeMonitor} {p : Port} {a : Chr} (h : m.find p a = none) :
    m.removePair p a = m := by
  unfold ExchangeMonitor.removePair
  have : m.records.filter (fun r => !r.onPair p a) = m.records :=
    List.filter_eq_self.mpr fun r hr => by simp [ExchangeMonitor.find_none h r hr]
  rw [this]

theorem ExchangeMonitor.change_none {m : ExchangeMonitor} {p : Port} {a : Chr} (f : ExchangeRecord → ExchangeRecord)
    (h : m.find p a = none) : m.change p a f = m := by
  unfold ExchangeMonitor.change
  have : m.records.map (fun r => if r.onPair p a then f r else r) = m.records :=
    (List.map_congr_left fun r hr => by simp [ExchangeMonitor.find_none h r hr]).trans (List.map_id' _)
  rw [this]

/-- An opening on a pair that holds no record, into a table with room: the record joins (R52). -/
theorem ExchangeMonitor.opening_room {m : ExchangeMonitor} {depth : Nat} {p : Port} {e : QueueEntry} {q : ExchangeRequest}
    (h : m.find p e.line = none) (d : m.openCount p < depth) (l : m.records.length < Config.exchangeCount) :
    m.opening depth p e q = some (m.append (m.opened p e q)) := by
  have a : m.records.any (fun r => r.onPair p e.line && r.isOpen) = false :=
    List.any_eq_false.mpr fun r hr => by simp [ExchangeMonitor.find_none h r hr]
  unfold ExchangeMonitor.opening
  simp only [a, ExchangeMonitor.removePair_none h, l, if_true]
  rw [if_neg (by simp), if_neg (by omega)]

end Sys2Proof.Machine
end

