-- ==== Sys2Proof/Laws/Routes.lean ====
section
/-! SUPPORT. Route banks in key order: finding, inserting, removing and changing the entry of a key, and the bank roles. -/

namespace Sys2Proof.Machine

/-- A bank in key order, one entry for a key (R1). -/
abbrev KeyOrdered (es : List RouteEntry) : Prop := (es.map RouteEntry.rank).Pairwise (· < ·)

theorem Port.number_lt (p : Port) : p.number < 5 := by cases p <;> decide

theorem Port.number_inj {p q : Port} (h : p.number = q.number) : p = q := by
  cases p <;> cases q <;> first | rfl | (exact absurd h (by decide))

/-- A place in key order is one key. -/
theorem keyRank_inj {p q : Port} {a b : Chr} (h : keyRank p a = keyRank q b) : p = q ∧ a = b := by
  have ha := a.isLt
  have hb := b.isLt
  unfold keyRank at h
  exact ⟨Port.number_inj (by omega), BitVec.eq_of_toNat_eq (by omega)⟩

theorem RouteEntry.rank_eq_iff (x : RouteEntry) (p : Port) (a : Chr) :
    x.rank = keyRank p a ↔ x.arrival = p ∧ x.address = a :=
  ⟨fun h => keyRank_inj h, fun h => by rw [RouteEntry.rank, h.1, h.2]⟩

theorem KeyOrdered.cons {x : RouteEntry} {es : List RouteEntry} :
    KeyOrdered (x :: es) ↔ (∀ y ∈ es, x.rank < y.rank) ∧ KeyOrdered es := by
  simp [KeyOrdered, List.pairwise_cons]

/-! ### Finding -/

theorem findEntry_some {es : List RouteEntry} {p : Port} {a : Chr} {x : RouteEntry} (h : findEntry es p a = some x) :
    x ∈ es ∧ x.arrival = p ∧ x.address = a := by
  unfold findEntry at h
  have k := List.find?_some h
  exact ⟨List.mem_of_find?_eq_some h, of_decide_eq_true k⟩

theorem findEntry_none {es : List RouteEntry} {p : Port} {a : Chr} (h : findEntry es p a = none) :
    ∀ x ∈ es, x.rank ≠ keyRank p a := by
  intro x hx e
  have := List.find?_eq_none.mp h x hx
  exact this (decide_eq_true ((RouteEntry.rank_eq_iff x p a).mp e))

/-- In a bank split at an entry, no entry before or after it has its key. -/
theorem KeyOrdered.split {pre post : List RouteEntry} {x : RouteEntry} (h : KeyOrdered (pre ++ x :: post)) :
    (∀ y ∈ pre, y.rank ≠ x.rank) ∧ ∀ y ∈ post, y.rank ≠ x.rank := by
  unfold KeyOrdered at h
  rw [List.map_append, List.map_cons, List.pairwise_append, List.pairwise_cons] at h
  refine ⟨fun y hy => ?_, fun y hy => ?_⟩
  · exact Nat.ne_of_lt (h.2.2 _ (List.mem_map_of_mem hy) _ (List.mem_cons_self ..))
  · exact Nat.ne_of_gt (h.2.1.1 _ (List.mem_map_of_mem hy))

theorem findEntry_split {pre post : List RouteEntry} {x : RouteEntry} (h : KeyOrdered (pre ++ x :: post)) :
    findEntry (pre ++ x :: post) x.arrival x.address = some x := by
  unfold findEntry
  rw [List.find?_append, List.find?_eq_none.mpr, Option.none_or, List.find?_cons_of_pos (by simp)]
  intro y hy k
  exact h.split.1 y hy ((RouteEntry.rank_eq_iff y _ _).mpr (of_decide_eq_true k))

/-! ### Changing and removing -/

/-- Changing the entry of a key changes that entry and no other. -/
theorem changeEntry_split {pre post : List RouteEntry} {x : RouteEntry} (h : KeyOrdered (pre ++ x :: post))
    (f : RouteEntry → RouteEntry) : changeEntry (pre ++ x :: post) x.arrival x.address f = pre ++ f x :: post := by
  have same : ∀ es : List RouteEntry, (∀ y ∈ es, y.rank ≠ x.rank) →
      es.map (fun e => if e.arrival = x.arrival ∧ e.address = x.address then f e else e) = es := fun es k =>
    (List.map_congr_left fun y hy => if_neg fun c => k y hy ((RouteEntry.rank_eq_iff y _ _).mpr c)).trans (List.map_id' es)
  unfold changeEntry
  rw [List.map_append, List.map_cons, same pre h.split.1, same post h.split.2, if_pos ⟨rfl, rfl⟩]

/-- Removing the entry of a key removes that entry and no other. -/
theorem removeEntry_split {pre post : List RouteEntry} {x : RouteEntry} (h : KeyOrdered (pre ++ x :: post)) :
    removeEntry (pre ++ x :: post) x.arrival x.address = pre ++ post := by
  have same : ∀ es : List RouteEntry, (∀ y ∈ es, y.rank ≠ x.rank) →
      es.filter (fun e => !decide (e.arrival = x.arrival ∧ e.address = x.address)) = es := fun es k =>
    List.filter_eq_self.mpr fun y hy => by
      have : ¬(y.arrival = x.arrival ∧ y.address = x.address) := fun c => k y hy ((RouteEntry.rank_eq_iff y _ _).mpr c)
      simp only [this, decide_false, Bool.not_false]
  unfold removeEntry
  rw [List.filter_append, List.filter_cons_of_neg (by simp), same pre h.split.1, same post h.split.2]

/-! ### Inserting -/

theorem mem_insertEntry {e : RouteEntry} : ∀ {es : List RouteEntry}, KeyOrdered es → ∀ y,
    y ∈ insertEntry e es ↔ y = e ∨ y ∈ es ∧ y.rank ≠ e.rank
  | [], _, y => by simp [insertEntry]
  | x :: es, h, y => by
    have hc := KeyOrdered.cons.mp h
    unfold insertEntry
    split
    · next lt =>
      simp only [List.mem_cons]
      refine ⟨?_, ?_⟩
      · rintro (k | k | k)
        · exact .inl k
        · exact .inr ⟨.inl k, by rw [k]; omega⟩
        · exact .inr ⟨.inr k, by have := hc.1 y k; omega⟩
      · rintro (k | ⟨k | k, -⟩)
        · exact .inl k
        · exact .inr (.inl k)
        · exact .inr (.inr k)
    · split
      · next eq =>
        simp only [List.mem_cons]
        refine ⟨?_, ?_⟩
        · rintro (k | k)
          · exact .inl k
          · exact .inr ⟨.inr k, by have := hc.1 y k; omega⟩
        · rintro (k | ⟨k | k, n⟩)
          · exact .inl k
          · exact absurd (by rw [k, eq]) n
          · exact .inr k
      · next nlt neq =>
        rw [List.mem_cons, mem_insertEntry hc.2 y, List.mem_cons]
        refine ⟨?_, ?_⟩
        · rintro (k | k | k)
          · exact .inr ⟨.inl k, by rw [k]; omega⟩
          · exact .inl k
          · exact .inr ⟨.inr k.1, k.2⟩
        · rintro (k | ⟨k | k, n⟩)
          · exact .inr (.inl k)
          · exact .inl k
          · exact .inr (.inr ⟨k, n⟩)

theorem insertEntry_ordered {e : RouteEntry} : ∀ {es : List RouteEntry}, KeyOrdered es → KeyOrdered (insertEntry e es)
  | [], _ => by simp [insertEntry, KeyOrdered]
  | x :: es, h => by
    have hc := KeyOrdered.cons.mp h
    unfold insertEntry
    split
    · next lt =>
      refine KeyOrdered.cons.mpr ⟨fun y hy => ?_, h⟩
      rcases List.mem_cons.mp hy with k | k
      · rw [k]; exact lt
      · exact lt.trans (hc.1 y k)
    · split
      · next eq => exact KeyOrdered.cons.mpr ⟨fun y hy => by rw [eq]; exact hc.1 y hy, hc.2⟩
      · next nlt neq =>
        refine KeyOrdered.cons.mpr ⟨fun y hy => ?_, insertEntry_ordered hc.2⟩
        rcases (mem_insertEntry hc.2 y).mp hy with k | k
        · rw [k]; omega
        · exact hc.1 y k.1

theorem insertEntry_length (e : RouteEntry) : ∀ es : List RouteEntry, KeyOrdered es →
    (insertEntry e es).length = es.length + (if es.any (fun x => decide (x.rank = e.rank)) then 0 else 1)
  | [], _ => by simp [insertEntry]
  | x :: es, h => by
    have hc := KeyOrdered.cons.mp h
    unfold insertEntry
    split
    · next lt =>
      have : (x :: es).any (fun x => decide (x.rank = e.rank)) = false := by
        apply List.any_eq_false.mpr
        intro y hy
        rcases List.mem_cons.mp hy with k | k
        · subst k; simp; omega
        · have := hc.1 y k; simp; omega
      rw [this]; simp
    · split
      · next eq => simp [eq]
      · next nlt neq =>
        have : ¬x.rank = e.rank := fun k => neq k.symm
        simp [insertEntry_length e es hc.2, this, Nat.add_right_comm]

/-! ### Bank roles -/

theorem BankId.other_ne (b : BankId) : b.other ≠ b := by cases b <;> decide

@[simp] theorem BankId.other_other (b : BankId) : b.other.other = b := by cases b <;> rfl

@[simp] theorem RouteUnit.bank_setBank (r : RouteUnit) (b : BankId) (es : List RouteEntry) : (r.setBank b es).bank b = es := by
  cases b <;> rfl

theorem RouteUnit.bank_setBank_other (r : RouteUnit) {b c : BankId} (es : List RouteEntry) (h : c ≠ b) :
    (r.setBank b es).bank c = r.bank c := by cases b <;> cases c <;> first | rfl | exact absurd rfl h

@[simp] theorem RouteUnit.setBank_active (r : RouteUnit) (b : BankId) (es : List RouteEntry) :
    (r.setBank b es).active = r.active := by cases b <;> rfl

@[simp] theorem RouteUnit.setActive_activeBank (r : RouteUnit) (es : List RouteEntry) : (r.setActive es).activeBank = es := by
  simp [RouteUnit.setActive, RouteUnit.activeBank]

@[simp] theorem RouteUnit.setActive_shadowBank (r : RouteUnit) (es : List RouteEntry) :
    (r.setActive es).shadowBank = r.shadowBank := by
  simp [RouteUnit.setActive, RouteUnit.shadowBank, RouteUnit.bank_setBank_other r es (BankId.other_ne r.active)]

@[simp] theorem RouteUnit.setShadow_shadowBank (r : RouteUnit) (es : List RouteEntry) : (r.setShadow es).shadowBank = es := by
  simp [RouteUnit.setShadow, RouteUnit.shadowBank]

@[simp] theorem RouteUnit.setShadow_activeBank (r : RouteUnit) (es : List RouteEntry) :
    (r.setShadow es).activeBank = r.activeBank := by
  simp [RouteUnit.setShadow, RouteUnit.activeBank, RouteUnit.bank_setBank_other r es (BankId.other_ne r.active).symm]

@[simp] theorem RouteUnit.setActive_same (r : RouteUnit) : r.setActive r.activeBank = r := by
  unfold RouteUnit.setActive RouteUnit.activeBank
  cases r.active <;> rfl

/-- The swap exchanges the roles and empties the bank that becomes shadow (R12, R15). -/
theorem RouteUnit.swap_spec (r : RouteUnit) :
    r.swap.activeBank = r.shadowBank ∧ r.swap.shadowBank = [] ∧ r.swap.active = r.active.other
      ∧ r.swap.shadow = .reseeding ∧ r.swap.reseedPos = 0 ∧ r.swap.countReports = r.countReports := by
  cases r with
  | mk first second active shadow v q c => cases active <;> exact ⟨rfl, rfl, rfl, rfl, rfl, rfl⟩

/-- A reseed step appends the next active entry to the shadow bank (R15). -/
theorem RouteUnit.copyNext_some {r : RouteUnit} {e : RouteEntry} (h : r.activeBank[r.reseedPos]? = some e) :
    r.copyNext = { (r.setShadow (r.shadowBank ++ [e])) with reseedPos := r.reseedPos + 1 } := by
  unfold RouteUnit.copyNext; rw [h]

end Sys2Proof.Machine
end

