-- ==== Sys2Proof/WellFormed.lean ====
section
/-! DEFINITION. Which terms of Instr the spec gives a form: the checks on a command's operands that do not depend on
the state. `exec` asks for none of them. -/

namespace Sys2Proof

/-- A break is reported with value 00h and the marker clear (R143). -/
def reportWellFormed (value : Chr) (marker : Bool) (error : Option CharError) : Bool :=
  match error with
  | some .brk => decide (value = 0) && !marker
  | some .parity | some .framing | none => true

/-- A notice carries exactly the fields of its kind (R164, Table 9-2). -/
def noticeWellFormed (kind : NoticeKind) (port : Option Port) (address : Option Chr) (detail : Option Word16) : Bool :=
  decide (kind.fields = (port.isSome, address.isSome, detail.isSome))

/-- PORT_FORMAT carries 14 + 2n parameters, n being parameter 13 (R179), and a request at most 59 (Table 10-2). -/
def portFormatWellFormed (params : List Chr) : Bool :=
  Machine.Command.portFormat.countOk params && decide (params.length ≤ 59)

/-- SETTINGS_WRITE carries 18 parameters (Table 10-6). -/
def settingsWellFormed (record : List Chr) : Bool := Machine.Command.settingsWrite.countOk record

def Instr.wellFormed : Instr → Bool
  | .coldReset _ _ => true
  | .characterReport _ value marker _ error => reportWellFormed value marker error
  | .echoMissing _ | .endGap _ | .telegramCompletion _ | .countReport _ _ _ | .lineRelease _ | .backoffEnd _ => true
  | .attemptCompletion _ | .deadlineExpiry _ _ | .lingerExpiry _ _ | .spaceHeld _ => true
  -- STUCK is a branch's fault (R131)
  | .stuckFault p => p.isBranch
  | .trunkBreak | .validationStep | .reseedCopy => true
  | .noticePost kind port address detail => noticeWellFormed kind port address detail
  | .mgmtRequest | .status _ | .forwarding _ _ | .portRead _ _ => true
  | .portFormat _ params => portFormatWellFormed params
  | .enable _ _ | .disable _ _ | .recover _ _ | .purge _ _ | .countersClear _ _ => true
  | .routeWrite _ _ _ _ _ _ _ _ _ | .routeDelete _ _ _ | .routeRead _ _ _ _ | .routeList _ _ _ _ => true
  | .tableCommit _ | .tableDiscard _ | .routeRearm _ _ _ | .exchangeList _ | .noticeRead _ _ => true
  | .settingsWrite _ record => settingsWellFormed record
  | .settingsRead _ | .restart _ _ | .markToSpaceEdge _ | .returnOfMark _ | .falseStart _ | .driverEnableRelease _ => true

end Sys2Proof
end

