-- ==== Sys2Proof/Tests/Slice0.lean ====
section
/-! SUPPORT. Small tests, their expected values taken from spec/, and for each statement with hypotheses a state and
operands that meet them together. -/

set_option Elab.async false

namespace Sys2Proof.Tests

open Sys2Proof Sys2Proof.Machine

/-! ### Small states -/

/-- The state after one command. -/
def after (c : Instr) (s : State) : State :=
  match exec c s with
  | .next t => t
  | .fault _ => s
  | .refused _ => s

/-- Branch B1 ACTIVE, its receiver IDLE, its line at mark. -/
def idle1 : State :=
  State.reset.onPort .b1 fun x => { x with admin := .active, receiver := .idle, charReceiver := .awaitStart }

/-- B1 as `idle1`, with its receiver in the given state. -/
def receiver1 (r : Receiver) : State := idle1.onPort .b1 fun x => { x with receiver := r }

/-- B1 at space, a candidate start bit just begun. -/
def space1 : State := after (.markToSpaceEdge .b1) idle1

/-- B1 has taken the address character 41h: descriptor 1, cell 8. -/
def receiving : State := after (.characterReport .b1 0x41 false false none) idle1

/-- `receiving` with descriptor 1 at the given length and cells. -/
def long (n : Nat) (cells free : List CellNo) : State :=
  { receiving with
    pool :=
      { (receiving.pool.setDescriptor 1 { receiving.pool.descriptor 1 with length := n, cells := cells }) with
        free := free } }

/-- `s` with its port B1 given a completion of descriptor 1 to take. -/
def raised (p : Port) (a : Chr) (dm : Option Damage) (s : State) : State :=
  ({ s with pool := receiving.pool } : State).onPort p fun x => { x with completions := [⟨a, some 1, 1, false, dm⟩] }

/-- Descriptor 1 stored and HELD, in the queue of B1 with the entries behind it, B1's scheduler as given. -/
def queued (ph : Phase) (attempts abandons : Nat) (req : Option ExchangeRequest) (rest : List QueueEntry) : State :=
  ({ idle1 with
      pool := receiving.pool.setDescriptor 1 { receiving.pool.descriptor 1 with state := .held } } : State).onPort .b1
    fun x => { x with scheduler := ⟨⟨1, 0x41, req⟩ :: rest, ph, attempts, 0, abandons⟩ }

/-- The attempt of `queued` on the line, `pos` characters compared good. -/
def sending (pos attempts abandons : Nat) (rest : List QueueEntry) : State :=
  (queued .onLine attempts abandons none rest).onPort .b1 fun x =>
    { x with
      receiver := .echo pos
      transmitter := .sending x.format 0 (x.format.levels 0x41 true) 11 0 false
      charReceiver := .inCharacter x.format 10 0 [] }

/-- An exchange record toward B1 under line address 41h, its origin the trunk's 31h. -/
def record1 (st : ExchangeState) (standIn : Bool) : ExchangeRecord :=
  ⟨.b1, 0x41, .trunk, 0x31, 200, standIn, st, 0, some 1, false, 0⟩

def withRecords (rs : List ExchangeRecord) (s : State) : State :=
  { s with exchanges := { s.exchanges with records := rs } }

/-- `n` records toward B2 on different line addresses. -/
def many (n : Nat) (st : ExchangeState) : List ExchangeRecord :=
  (List.range n).map fun k => ⟨.b2, BitVec.ofNat 8 k, .trunk, 0x31, 200, false, st, 0, none, false, BitVec.ofNat 16 k⟩

/-- The entry (B1, 41h) to B2 with the given allowance. -/
def route1 (al : Option Allowance) (retired : Bool) : RouteEntry :=
  ⟨.b1, 0x41, ⟨false, false, true, false, false⟩, none, none, al, retired⟩

/-- Active and shadow bank as given, forwarding ON. -/
def withRoutes (active shadow : List RouteEntry) (st : ShadowState) (s : State) : State :=
  { s with
    routes := { s.routes with first := active, second := shadow, shadow := st }
    agent := { s.agent with forwarding := true } }

/-- `s` with a command of this code in execution. -/
def executing (code : Chr) (s : State) : State := { s with agent := { s.agent with executing := some ⟨1, code⟩ } }

/-- B2 ACTIVE too. -/
def two (s : State) : State := s.onPort .b2 fun x => { x with admin := .active, receiver := .idle }

/-- No general descriptor is FREE. -/
def noDescriptor (s : State) : State :=
  { s with pool := { s.pool with descriptors := Vector.replicate 48 { freeDescriptor with state := .held } } }

/-- A management request in descriptor 1 and cells 8 and 9, handed to the agent. -/
def handed (cs : List Chr) : State :=
  { State.reset with
    agent := { State.reset.agent with requests := [1] }
    pool :=
      { (State.reset.pool.setDescriptor 1 (openedDescriptor .trunk 0xF0 [8, 9, 10] none)) with
        cells := writeCells [] 256 cs }.setDescriptor 1
        { openedDescriptor .trunk 0xF0 [8, 9, 10] none with length := cs.length } }

/-- A request with its CRC. -/
def signed (body : List Chr) : List Chr := body ++ twoChars (crc16 body)

/-- A management request with these characters open on the trunk, in descriptor 1. -/
def asking (cs : List Chr) : State :=
  let s := handed cs
  ({ s with agent := State.reset.agent } : State).onPort .trunk fun x =>
    { x with receiver := .inTelegram 1 true, charReceiver := .awaitStart }

/-! ### Well-formed terms: one refused for each check -/

theorem test_break_report_has_value_zero : (Instr.characterReport .b1 0x41 false false (some .brk)).wellFormed = false := by
  decide

theorem test_break_report_has_no_marker : (Instr.characterReport .b1 0x00 true false (some .brk)).wellFormed = false := by
  decide

theorem test_break_report_is_well_formed : (Instr.characterReport .b1 0x00 false false (some .brk)).wellFormed = true := by
  decide

theorem test_trunk_has_no_stuck_fault : (Instr.stuckFault .trunk).wellFormed = false := by decide

theorem test_restarted_names_no_port : (Instr.noticePost .restarted (some .b1) none (some 1)).wellFormed = false := by
  decide

theorem test_line_error_carries_all_fields :
    (Instr.noticePost .lineError (some .b1) (some 0x41) (some 1)).wellFormed = true := by decide

theorem test_port_format_needs_its_pattern :
    (Instr.portFormat 1 (0x01 :: List.replicate 14 0x01)).wellFormed = false := by decide

theorem test_port_format_fits_a_request :
    (Instr.portFormat 1 (0x01 :: (List.replicate 12 0x01 ++ [0x17] ++ List.replicate 46 0x01))).wellFormed = false := by
  decide

theorem test_settings_write_has_18_parameters : (Instr.settingsWrite 1 (List.replicate 17 0x00)).wellFormed = false := by
  decide

/-! ### Characters, checks and pacing -/

/-- The check value of R174. -/
theorem test_crc_of_nine_digits : crc16 [0x31, 0x32, 0x33, 0x34, 0x35, 0x36, 0x37, 0x38, 0x39] = 0x29B1 := by
  decide +kernel

/-- Section 11.10: a character of 764 ticks, an end gap of 759, a guard of 966. -/
theorem test_57600_pattern :
    (defaultFormat (preset 3)).charTime = 764 ∧ (defaultFormat (preset 3)).span 11 = 759
      ∧ (defaultFormat (preset 3)).span 14 = 966 := by decide +kernel

/-- R139: 41h has two 1 bits, so even parity sends 0: start, data least significant first, parity, stop. -/
theorem test_levels_of_41h :
    (defaultFormat [417]).levels 0x41 false =
      [.space, .mark, .space, .space, .space, .space, .space, .mark, .space, .space, .mark] := by decide +kernel

/-- R143: a wrong parity bit with a mark stop bit is a parity error. -/
theorem test_report_parity_error :
    ((defaultFormat [417]).report
      [.space, .mark, .space, .space, .space, .space, .space, .mark, .space, .mark, .mark]).error = some .parity := by
  decide +kernel

/-- R143: all data bits 0 and a space stop bit are a break. -/
theorem test_report_break : ((defaultFormat [417]).report (List.replicate 11 .space)).error = some .brk := by
  decide +kernel

/-- R105: retry 2 on port B3 with the default guard waits 14 + 24 + 9 bit-times. -/
theorem test_backoff_gap : backoffGap 14 2 .b3 = 47 := by decide

/-! ### Single commands against the spec's examples -/

/-- Table 11-1, step 1: the straps at 3 give management address F3h. -/
theorem test_cold_reset_address : (after (.coldReset 3 0) State.reset).mgmtAddress = 0xF3 := by decide +kernel

/-- Table 11-1, step 3, and section 11.10: the STATUS reply has 15 characters, status bit 4 set, 47 descriptors, 120
cells, no record, stamp 0. -/
theorem test_status_after_reset :
    ((after (.status 0x01) (after (.coldReset 3 0) State.reset)).pool.telegram 0).take 13 =
      [0xF3, 0x81, 0x01, 0x00, 0x10, 0x03, 0x00, 0x2F, 0x78, 0x00, 0x00, 0x00, 0x00]
      ∧ ((after (.status 0x01) State.reset).pool.telegram 0).length = 15 := by decide +kernel

/-- Table 11-6, step 1: the default stand-in reply toward origin address 31h is 31h, E0h. -/
theorem test_stand_in_reply : defaultSettings.standInReply 0x31 .noAnswer = [0x31, 0xE0] := by decide +kernel

/-- Table 11-6, step 1: the deadline leaves LAPSED with 200 and posts EXCHANGE_CLOSED with NO_ANSWER. -/
theorem test_deadline_lapses :
    (after (.deadlineExpiry .b1 0x41) (withRecords [record1 .awaiting false] idle1)).exchanges.records =
      [{ record1 .lapsed false with remaining := 200 }] := by decide +kernel

/-- Table 11-6, step 3: a late address character sets late hold and marks the telegram LATE. -/
theorem test_late_address_character :
    let t := after (.characterReport .b1 0x41 false false none) (withRecords [record1 .lapsed false] idle1)
    t.exchanges.records = [{ record1 .lapsed false with lateHold := true }]
      ∧ (t.pool.descriptor 1).damage = some .late := by decide +kernel

/-- Table 11-5, step 4: an address character on the pair of an AWAITING record makes it ANSWERING, its time held. -/
theorem test_answering :
    (after (.characterReport .b1 0x41 false false none)
        (withRecords [{ record1 .awaiting false with remaining := 188 }] idle1)).exchanges.records =
      [{ record1 .answering false with remaining := 188 }] := by decide +kernel

/-- Table 11-7, step 4: a count of 1 that retires. -/
theorem test_count_retires :
    let t := after (.countReport .first .b1 0x41) (withRoutes [route1 (some ⟨1, 4, .retire⟩) false] [] .clean idle1)
    t.routes.first = [route1 (some ⟨0, 4, .retire⟩) true] ∧ t.notices.records.map Notice.kind = [.allowanceRetired] := by
  decide +kernel

/-- Table 11-8, step 3: a telegram without a FREE descriptor posts DESCRIPTOR_EXHAUSTED with its port and address. -/
theorem test_descriptor_exhausted :
    (after (.characterReport .b1 0x50 false false none) (noDescriptor idle1)).notices.records =
      [⟨0, .descriptorExhausted, some .b1, some 0x50, none⟩] := by decide +kernel

/-- R168: a drain of nothing is refused RANGE. -/
theorem test_notice_read_of_zero : ((after (.noticeRead 1 0) State.reset).pool.telegram 0).getD 3 0 = 0x03 := by
  decide +kernel

/-- R160: ENABLE of the trunk is refused STATE. -/
theorem test_enable_trunk : ((after (.enable 1 0) State.reset).pool.telegram 0).getD 3 0 = 0x02 := by decide +kernel

/-- R6: the first entry written is answered with a count of 1 and leaves the shadow EDITED. -/
theorem test_route_write :
    let t := after (.routeWrite 1 0x01 0x41 0x04 0x00 0x00 0 0 0) State.reset
    t.routes.second = [route1 none false] ∧ t.routes.shadow = .edited
      ∧ ((t.pool.telegram 0).drop 3).take 3 = [0x00, 0x11, 0x01] := by decide +kernel

/-- R182: STATUS clears the restart-seen flag. -/
theorem test_status_clears_restart_seen : (after (.status 1) State.reset).agent.restartSeen = false := by decide +kernel

/-- R132: one break restarts once. -/
theorem test_break_is_spent :
    (after .trunkBreak (after (.markToSpaceEdge .trunk) (after (.returnOfMark .trunk) State.reset))).notices.records =
      [⟨0, .restarted, none, none, some 2⟩] := by decide +kernel

/-- An idle step with nothing due is one tick. -/
theorem test_idle_tick :
    (match step State.reset with
      | .next t => t.exchanges.tickCount
      | .fault _ => 0
      | .refused _ => 0) = 1 := by decide +kernel

/-- The level read at tick 208 of a start bit of 417 ticks is its value (R141): mark there is a false start (R140). -/
theorem test_sample_at_its_tick :
    let s (l : Level) := idle1.onPort .b1 fun x => { x with rxPin := l, charReceiver := .inCharacter x.format 0 208 [] }
    (s .mark).due = some (.falseStart .b1) ∧ (s .space).due = none
      ∧ ((s .space).tick.port .b1).charReceiver = .inCharacter (idle1.port .b1).format 0 209 [.space] := by decide +kernel

/-- A stop bit sampled mark is reported in its tick, the edge of the next tick then being a start edge (R142). -/
theorem test_edge_after_report :
    let s := idle1.onPort .b1 fun x =>
      { x with charReceiver := .inCharacter x.format 10 208 (.space :: List.replicate 8 .mark ++ [.space]) }
    s.due = some (.characterReport .b1 0xFF false false none)
      ∧ ((after (.markToSpaceEdge .b1) (after (.characterReport .b1 0xFF false false none) s)).port .b1).charReceiver =
          .inCharacter (idle1.port .b1).format 0 0 [] := by decide +kernel

/-- A head that arrives while the driver finishes a cut character waits for the release (R147, Table 7-6). -/
theorem test_cut_character_is_finished :
    let s := (queued .empty 0 0 none []).onPort .b1 fun x =>
      { x with monitor := .released, transmitter := .sending x.format 0 (x.format.levels 0x41 true) 3 5 true }
    ((s.decideHead .b1).scheduler .b1).phase = .reserved
      ∧ ((s.decideHead .b1).port .b1).transmitter = (s.port .b1).transmitter := by decide +kernel

/-- The completion of a request on the trunk, and then the request, are taken before a branch's completion. -/
theorem test_request_first :
    let s := raised .trunk 0xF0 none (raised .b1 0x41 none idle1)
    s.due = some (.telegramCompletion .trunk) ∧ (after (.telegramCompletion .trunk) s).due = some .mgmtRequest := by
  decide +kernel

/-- The end gap of a STATUS request offers its reply in the very step, and with the guard reached at the end gap it
starts at once (R196). -/
theorem test_reply_offered_at_end_gap :
    let s := (asking (signed [0xF0, 0x01, 0x07])).onPort .trunk fun x => { x with monitor := .released }
    let t := after (.endGap .trunk) s
    (t.scheduler .trunk).queue = [⟨0, 0xF0, none⟩] ∧ (t.scheduler .trunk).phase = .onLine
      ∧ (t.port .trunk).receiver = .echo 0 ∧ (t.pool.telegram 0).take 4 = [0xF0, 0x81, 0x07, 0x00]
      ∧ (t.port .trunk).counters.rxTelegrams = 1 := by decide +kernel

/-- A request ahead of it on the trunk is decided before it, and it is then an overrun (R122, R177). -/
theorem test_request_behind_a_request :
    let s := (asking (signed [0xF0, 0x01, 0x07])).onPort .trunk fun x => { x with completions := [⟨0x30, none, 1, false, none⟩] }
    let t := after (.endGap .trunk) { s with pool := s.pool.setDescriptor 0 { s.pool.descriptor 0 with refs := 1 } }
    t.notices.records.map Notice.kind = [.mgmtOverrun] ∧ (t.port .trunk).counters.rxDiscarded = 1 := by decide +kernel

/-! ### Witnesses: states and operands that meet a statement's hypotheses -/

theorem every_port {P : Port → Prop} (h : ∀ p ∈ Port.all, P p) (p : Port) : P p := h p (by cases p <;> decide)

theorem idle1_heads (q : Port) : (idle1.scheduler q).phase ≠ .headHeld :=
  every_port (P := fun q => (idle1.scheduler q).phase ≠ .headHeld) (by decide +kernel) q

/-- No record stands on a pair twice, in a table of one record. -/
theorem one_record_sound (r : ExchangeRecord) (s : State) : ExchangesSound (withRecords [r] s) :=
  ⟨(by decide : 1 ≤ 16), List.pairwise_singleton _ _⟩

theorem canonical {s : State} (h : cellsWf s.pool.cells = true) : CellsCanonical s := h

/-- The state after reset takes any request. -/
theorem reset_ready (id : RequestId) : CellsCanonical State.reset ∧ Ready State.reset id :=
  ⟨canonical (by decide +kernel), ⟨by decide +kernel, fun h => by cases h⟩⟩

theorem witness_StepRunsFrontCommand :
    ({ State.reset with pending := [.trunkBreak, .mgmtRequest] } : State).pending = .trunkBreak :: [.mgmtRequest] := rfl

/-- The trunk at space, its break ARMED. -/
def trunkSpace : State := after (.markToSpaceEdge .trunk) (after (.returnOfMark .trunk) State.reset)

theorem witness_BreakRestartsOnceWhileArmed :
    trunkSpace.trunk.breakState = .armed ∧ (trunkSpace.port .trunk).rxPin = .space
      ∧ Port.all.all (fun p => (trunkSpace.port p).completions.isEmpty) = true
      ∧ State.reset.trunk.breakState = .spent := by decide +kernel

/-- B1 with a telegram open and B2 with one it discards, a transmission on B3, an overlap depth waiting, and the trunk at
space with its break ARMED. -/
theorem witness_BreakRestartsOnceWhileArmed_cut :
    let s : State := { (((receiving.onPort .b2 fun x => { x with receiver := .discarding 0x30 9 }).onPort .b3 fun x =>
        { x with transmitter := .sending x.format 0 [.space, .mark] 0 3 false }).onPort .trunk fun x =>
        { x with rxPin := .space }) with trunk := ⟨none, some 2, .armed⟩ }
    s.trunk.breakState = .armed ∧ (s.port .trunk).rxPin = .space
      ∧ Port.all.all (fun p => (s.port p).completions.isEmpty) = true
      ∧ (∃ b, (s.port .b1).receiver = .inTelegram 1 b) ∧ (s.port .b1).counters.rxDiscarded ≤ 65535
      ∧ (s.port .b2).counters.rxDiscarded ≤ 65535 ∧ s.trunk.pendingDepth = some 2 :=
  ⟨rfl, rfl, by decide +kernel, ⟨true, by decide +kernel⟩, by decide +kernel, by decide +kernel, rfl⟩

theorem witness_LineLevelEvents :
    (idle1.port .b1).charReceiver = .awaitStart ∧ (idle1.port .b1).monitor ≠ .spaceHeld
      ∧ (State.reset.port .b1).charReceiver = .awaitMark
      ∧ ((after (.spaceHeld .b1) space1).port .b1).monitor = .spaceHeld := by decide +kernel

theorem witness_FalseStartAndHeldSpace :
    (space1.port .b1).charReceiver = .inCharacter (space1.port .b1).format 0 0 []
      ∧ (space1.port .b1).monitor ≠ .spaceHeld
      ∧ (space1.port .b1).rxPin = .space ∧ (space1.port .b1).monitor = .busy := by decide +kernel

theorem witness_StuckFaultTakesBranchDown :
    let s := withRecords [record1 .awaiting false] space1
    Port.b1.isBranch = true ∧ (s.port .b1).admin = .active ∧ (s.port .b1).rxPin = .space
      ∧ s.notices.records.length < Config.noticeCount
      ∧ ∀ r ∈ s.exchanges.records, r.target = .b1 → r.isOpen = true → r.standIn = false := by decide +kernel

/-- Two open records of B1, the older one first in the table, and one with late hold. -/
def lostRecords (standIn : Bool) : List ExchangeRecord :=
  [record1 .awaiting standIn, { record1 .answering standIn with line := 0x42, seq := 1 },
    { record1 .lapsed false with line := 0x43, seq := 2, lateHold := true }]

theorem lost_records_sound (standIn : Bool) (s : State) : ExchangesSound (withRecords (lostRecords standIn) s) :=
  ⟨(by cases standIn <;> decide : (lostRecords standIn).length ≤ 16),
    (by cases standIn <;> decide :
      (lostRecords standIn).Pairwise fun a b => ¬(a.target = b.target ∧ a.line = b.line))⟩

/-- The records of `lostRecords` with stand-in OFF. -/
theorem witness_StuckFaultTakesBranchDown_records :
    let s := withRecords (lostRecords false) space1
    ExchangesSound s ∧ (∀ q, q ≠ .b1 → (s.scheduler q).phase ≠ .headHeld) ∧ s.trunk.pendingDepth = none
      ∧ ∀ r ∈ s.exchanges.records, r.target = .b1 → r.isOpen = true → r.standIn = false :=
  ⟨lost_records_sound _ _, fun q _ => (by cases q <;> intro h <;> cases h), rfl, by decide +kernel⟩

/-- The records of `lostRecords` with stand-in ON, no descriptor free and the queue of B1 empty. -/
theorem witness_StuckFaultTakesBranchDown_standIn :
    let s := withRecords (lostRecords true) (noDescriptor space1)
    ExchangesSound s ∧ (∀ q, q ≠ .b1 → (s.scheduler q).phase ≠ .headHeld) ∧ s.trunk.pendingDepth = none
      ∧ s.pool.freeDescriptor? = none ∧ (s.scheduler .b1).queue = [] ∧ (s.port .b1).admin = .active
      ∧ (s.port .b1).rxPin = .space :=
  ⟨lost_records_sound _ _, fun q _ => (by cases q <;> intro h <;> cases h), rfl, by decide +kernel, rfl, rfl, by decide +kernel⟩

/-- Lines at mark. -/
theorem space_is_seen : SpaceIsSeen idle1 := every_port (by decide +kernel)

/-- B1 at space with a telegram open in descriptor 1, a record with stand-in ON and one with stand-in OFF. -/
def losing : State :=
  withRecords [record1 .awaiting true, { record1 .answering false with line := 0x42, seq := 1 }]
    (after (.markToSpaceEdge .b1) receiving)

theorem losing_stand_in : LossStandIn .b1 losing (record1 .awaiting true) 2 9 :=
  ⟨by decide +kernel, by decide +kernel, by decide, ⟨by decide +kernel, by decide +kernel, by decide +kernel⟩,
    fun b => by cases b <;> decide +kernel⟩

theorem losing_sound : ExchangesSound losing := ⟨by decide +kernel, by decide +kernel⟩

theorem witness_StuckFaultTakesBranchDown_storage :
    ((losing.port .b1).admin = .active ∧ (losing.port .b1).rxPin = .space
      ∧ (losing.port .b1).receiver = .inTelegram 1 true ∧ (losing.port .b1).counters.rxDiscarded ≤ 65535
      ∧ (losing.pool.descriptor 1).state = .receiving ∧ (losing.pool.descriptor 1).refs = 1
      ∧ (∀ e ∈ (losing.scheduler .b1).queue, e.desc ≠ 1) ∧ losing.trunk.pendingDepth = none
      ∧ losing.agent.settings.inRanges = true)
      ∧ CellsCanonical losing ∧ ExchangesSound losing ∧ LossStandIn .b1 losing (record1 .awaiting true) 2 9
      ∧ ∀ q, q ≠ .b1 → (losing.scheduler q).phase ≠ .headHeld :=
  ⟨by decide +kernel, canonical (by decide +kernel), losing_sound, losing_stand_in,
    fun q _ => every_port (P := fun q => (losing.scheduler q).phase ≠ .headHeld) (by decide +kernel) q⟩

/-- The top address on an idle B1, in error or not; a break there is taken as 00h. -/
theorem witness_AddressCharacterOpensTelegram (err : Option CharError) :
    CellsCanonical idle1 ∧ ExchangesSound idle1 ∧ SpaceIsSeen idle1 ∧ StartsTelegram .b1 idle1 false err []
      ∧ (idle1.port .b1).charFormat.width = .eight ∧ idle1.pool.freeDescriptor? = some 1
      ∧ idle1.pool.free = 8 :: generalCells.tail :=
  ⟨canonical (by decide +kernel), ⟨(by decide : 0 ≤ 16), List.Pairwise.nil⟩, space_is_seen, ⟨.inl rfl, .inl ⟨rfl, rfl⟩⟩,
    rfl, by decide +kernel, by decide +kernel⟩

/-- B1 with 7-bit ADDRESS_BIT lines, and its highest address. -/
def narrow1 : State :=
  idle1.onPort .b1 fun x => { x with format := { x.format with width := .seven, framing := .addressBit } }

theorem witness_AddressCharacterOpensTelegram_narrow :
    CellsCanonical narrow1 ∧ ExchangesSound narrow1 ∧ SpaceIsSeen narrow1
      ∧ StartsTelegram .b1 narrow1 true (some .framing) [] ∧ (0x7F : Chr).toNat ≤ 0x7F
      ∧ narrow1.pool.freeDescriptor? = some 1 ∧ narrow1.pool.free = 8 :: generalCells.tail :=
  ⟨canonical (by decide +kernel), ⟨(by decide : 0 ≤ 16), List.Pairwise.nil⟩, every_port (by decide +kernel),
    ⟨.inr ⟨rfl, by decide⟩, .inl ⟨rfl, rfl⟩⟩, by decide, by decide +kernel, by decide +kernel⟩

/-- B1 in ADDRESS_BIT framing, its receiver in the given state, descriptor 1 and cell 8 taken, the table as given. -/
def marked1 (r : Receiver) (rs : List ExchangeRecord) : State :=
  withRecords rs
    (receiving.onPort .b1 fun x => { x with receiver := r, format := { x.format with framing := .addressBit } })

/-- A marker character, with or without a parity error, on the pair of a record in any state, with a telegram open that is
stored and with one that is not. -/
theorem witness_AddressCharacterOpensTelegram_marker (st : ExchangeState) (late : Bool) :
    let r : ExchangeRecord := { record1 st false with lateHold := late }
    let s := marked1 (.inTelegram 1 true) [r]
    (CellsCanonical s ∧ ExchangesSound s ∧ SpaceIsSeen s)
      ∧ StartsTelegram .b1 s true (some .parity) [⟨0x41, some 1, 1, false, none⟩]
      ∧ StartsTelegram .b1 (marked1 (.discarding 0x30 256) [r]) true none [⟨0x30, none, 256, false, none⟩]
      ∧ (s.port .b1).charFormat.width = .eight ∧ s.exchanges.find .b1 0x41 = some r
      ∧ s.pool.freeDescriptor? = some 2 ∧ s.pool.free = 9 :: generalCells.tail.tail :=
  ⟨⟨canonical (by decide +kernel : cellsWf receiving.pool.cells = true), one_record_sound _ _,
      every_port (P := fun q => ((marked1 (.inTelegram 1 true) []).port q).rxPin = .space →
        ((marked1 (.inTelegram 1 true) []).port q).monitor ≠ .released) (by decide +kernel)⟩,
    ⟨.inr ⟨rfl, by decide⟩, .inr ⟨rfl, .inl ⟨1, true, rfl, by
      have h : (receiving.pool.descriptor 1).address = 0x41 ∧ (receiving.pool.descriptor 1).length = 1
        ∧ (receiving.pool.descriptor 1).wide = false ∧ (receiving.pool.descriptor 1).damage = none := by decide +kernel
      show _ = [(⟨(receiving.pool.descriptor 1).address, some 1, (receiving.pool.descriptor 1).length,
        (receiving.pool.descriptor 1).wide, (receiving.pool.descriptor 1).damage⟩ : Completion)]
      rw [h.1, h.2.1, h.2.2.1, h.2.2.2]⟩⟩⟩,
    ⟨.inr ⟨rfl, by decide⟩, .inr ⟨rfl, .inr ⟨0x30, 256, rfl, rfl⟩⟩⟩, rfl, rfl,
    (by decide +kernel : receiving.pool.freeDescriptor? = some 2),
    (by decide +kernel : receiving.pool.free = 9 :: generalCells.tail.tail)⟩

/-- `idle1` with an empty free list and the given records. -/
def noCell (rs : List ExchangeRecord) : State :=
  withRecords rs { idle1 with pool := { idle1.pool with free := [] } }

/-- No cell for an address character, in error or not, on the pair of a record that marks it late. -/
theorem witness_StorageExhaustionIsRecorded_noCell (err : Option CharError) :
    let s := noCell [record1 .lapsed false]
    ExchangesSound s ∧ StartsTelegram .b1 s false err [] ∧ (s.port .b1).charFormat.width = .eight
      ∧ s.pool.freeDescriptor? = some 1 ∧ s.pool.free = [] ∧ lateMark .b1 0x41 s.exchanges = some .late
      ∧ lateMark .b1 0x41 (noCell []).exchanges = none :=
  ⟨one_record_sound _ _, ⟨.inl rfl, .inl ⟨rfl, rfl⟩⟩, rfl,
    (by decide +kernel : (noCell []).pool.freeDescriptor? = some 1), rfl,
    (by decide +kernel : lateMark .b1 0x41 (noCell [record1 .lapsed false]).exchanges = some .late),
    (by decide +kernel : lateMark .b1 0x41 (noCell []).exchanges = none)⟩

theorem witness_StorageExhaustionIsRecorded_descriptor (err : Option CharError) :
    let s := noDescriptor idle1
    StartsTelegram .b1 s false err [] ∧ (s.port .b1).charFormat.width = .eight ∧ s.pool.freeDescriptor? = none :=
  ⟨⟨.inl rfl, .inl ⟨rfl, rfl⟩⟩, rfl, (by decide +kernel : (noDescriptor idle1).pool.freeDescriptor? = none)⟩

theorem witness_StorageExhaustionIsRecorded_overlength :
    let s := long 256 [8, 9, 10, 11, 12, 13, 14, 15] []
    (s.port .b1).receiver = .inTelegram 1 true ∧ (s.port .b1).charFormat.framing = .idleLine
      ∧ (s.pool.descriptor 1).length = 256 := by decide +kernel

theorem witness_StorageExhaustionIsRecorded_shortfall :
    let s := long 224 [8, 9, 10, 11, 12, 13, 14] []
    (s.port .b1).receiver = .inTelegram 1 true ∧ (s.port .b1).charFormat.framing = .idleLine
      ∧ (s.pool.descriptor 1).length < 256 ∧ (s.pool.descriptor 1).length % 32 = 0 ∧ s.pool.free = [] := by
  decide +kernel

theorem witness_BodyCharacterIsStored_newCell :
    let s := long 32 [8] [9]
    CellsCanonical s ∧ (s.port .b1).receiver = .inTelegram 1 true ∧ (s.port .b1).charFormat.framing = .idleLine
      ∧ (s.port .b1).charFormat.width = .eight ∧ (s.pool.descriptor 1).length < 256
      ∧ (s.pool.descriptor 1).cells.length = ((s.pool.descriptor 1).length + 31) / 32
      ∧ (if (s.pool.descriptor 1).length % 32 = 0 then s.pool.free.head? = some 9
         else (s.pool.descriptor 1).cells[(s.pool.descriptor 1).length / 32]? = some 9) :=
  ⟨canonical (by decide +kernel), by decide +kernel⟩

theorem witness_BodyCharacterIsStored_lastPlace :
    let s := long 255 [8, 9, 10, 11, 12, 13, 14, 15] []
    CellsCanonical s ∧ (s.port .b1).receiver = .inTelegram 1 true ∧ (s.port .b1).charFormat.framing = .idleLine
      ∧ (s.port .b1).charFormat.width = .eight ∧ (s.pool.descriptor 1).length < 256
      ∧ (s.pool.descriptor 1).cells.length = ((s.pool.descriptor 1).length + 31) / 32
      ∧ (if (s.pool.descriptor 1).length % 32 = 0 then s.pool.free.head? = some 15
         else (s.pool.descriptor 1).cells[(s.pool.descriptor 1).length / 32]? = some 15) :=
  ⟨canonical (by decide +kernel), by decide +kernel⟩

theorem witness_BodyCharacterIsStored_marked :
    let s := marked1 (.inTelegram 1 true) []
    CellsCanonical s ∧ (s.port .b1).receiver = .inTelegram 1 true ∧ (s.port .b1).charFormat.framing = .addressBit
      ∧ (s.port .b1).charFormat.width = .eight ∧ (s.pool.descriptor 1).length = 1
      ∧ (s.pool.descriptor 1).cells.length = ((s.pool.descriptor 1).length + 31) / 32
      ∧ (s.pool.descriptor 1).cells[(s.pool.descriptor 1).length / 32]? = some 8 :=
  ⟨canonical (by decide +kernel), by decide +kernel⟩

theorem witness_BodyCharacterIsStored_stopped :
    ((marked1 (.inTelegram 1 false) []).port .b1).receiver = .inTelegram 1 false
      ∧ ((receiver1 (.inTelegram 1 false)).port .b1).charFormat.framing = .idleLine := by decide +kernel

theorem witness_BodyCharacterIsStored_notStored :
    ((receiver1 .off).port .b1).receiver = .off ∧ ((receiver1 .settling).port .b1).receiver = .settling
      ∧ ((marked1 .idle []).port .b1).receiver = .idle ∧ ((marked1 .idle []).port .b1).charFormat.framing = .addressBit
      ∧ ((receiver1 (.discarding 0x41 256)).port .b1).receiver = .discarding 0x41 256
      ∧ ((receiver1 (.discarding 0x41 256)).port .b1).charFormat.framing = .idleLine
      ∧ ∀ r, ((receiver1 r).port .b1).counters.rxDiscarded ≤ 65535 :=
  ⟨rfl, rfl, rfl, rfl, rfl, rfl, fun _ => (by decide +kernel : (idle1.port .b1).counters.rxDiscarded ≤ 65535)⟩

theorem witness_EndGapClosesTelegram :
    ((receiving.port .b1).quiet = true ∧ (receiving.port .b1).receiver = .inTelegram 1 true)
      ∧ (((receiver1 (.discarding 0x41 1)).port .b1).quiet = true
          ∧ ((receiver1 (.discarding 0x41 1)).port .b1).receiver = .discarding 0x41 1)
      ∧ (((receiver1 .settling).port .b1).quiet = true ∧ ((receiver1 .settling).port .b1).receiver = .settling)
      ∧ ((idle1.port .b1).quiet = true ∧ (idle1.port .b1).receiver = .idle) := by decide +kernel

theorem witness_EndGapClosesTelegram_request :
    let s := asking (signed ([0xF0, 0x02, 0x07] ++ [0x01]))
    (s.port .trunk).quiet = true ∧ (s.port .trunk).receiver = .inTelegram 1 true
      ∧ (s.pool.descriptor 1).damage = none ∧ (s.pool.descriptor 1).address = s.mgmtAddress
      ∧ (s.port .trunk).completions = [] ∧ s.agent.requests = [] ∧ [(0x01 : Chr)].length ≤ 59
      ∧ (Instr.forwarding 0x07 0x01).requestOf = some (⟨0x07, 0x02⟩, [0x01])
      ∧ (s.port .trunk).counters.rxTelegrams ≤ 65535
      ∧ s.pool.telegram 1 = [0xF0, 0x02, 0x07] ++ [0x01] ++ twoChars (crc16 ([0xF0, 0x02, 0x07] ++ [0x01])) := by
  decide +kernel

/-- The exchange request of `record1`. -/
def request1 : ExchangeRequest := ⟨.trunk, 0x31, 200, false⟩

theorem witness_LineReleaseStartsReservedHead_pass :
    (idle1.port .b1).monitor = .busy ∧ (idle1.port .b1).quiet = true ∧ (idle1.scheduler .b1).phase ≠ .reserved := by
  decide +kernel

theorem witness_LineReleaseStartsReservedHead_held :
    let s := withRecords [record1 .answering false] (queued .reserved 0 0 none [])
    (s.port .b1).monitor = .busy ∧ (s.port .b1).quiet = true ∧ (s.scheduler .b1).phase = .reserved
      ∧ (s.scheduler .b1).queue = ⟨1, 0x41, none⟩ :: [] ∧ s.held .b1 ⟨1, 0x41, none⟩ = true := by decide +kernel

theorem witness_LineReleaseStartsReservedHead_plain :
    let s := queued .reserved 0 0 none []
    (s.port .b1).monitor = .busy ∧ (s.port .b1).quiet = true ∧ (s.scheduler .b1).phase = .reserved
      ∧ (s.scheduler .b1).queue = ⟨1, 0x41, none⟩ :: [] ∧ s.held .b1 ⟨1, 0x41, none⟩ = false
      ∧ (s.port .b1).receiver = .idle := by decide +kernel

theorem witness_LineReleaseStartsReservedHead_opening :
    let s := withRecords (many 15 .sending) (queued .reserved 0 0 (some request1) [])
    (s.port .b1).monitor = .busy ∧ (s.port .b1).quiet = true ∧ (s.scheduler .b1).phase = .reserved
      ∧ (s.scheduler .b1).queue = ⟨1, 0x41, some request1⟩ :: [] ∧ s.held .b1 ⟨1, 0x41, some request1⟩ = false
      ∧ s.exchanges.records.length < 16 ∧ s.exchanges.find .b1 0x41 = none := by decide +kernel

theorem witness_LineReleaseStartsReservedHead_open :
    let s := (queued .reserved 0 0 none []).onPort .b1 fun x => { x with receiver := .inTelegram 1 true }
    let u := (queued .reserved 0 0 none []).onPort .b1 fun x => { x with receiver := .discarding 0x30 9 }
    ((s.port .b1).monitor = .busy ∧ (s.port .b1).quiet = true ∧ (s.scheduler .b1).phase = .reserved
      ∧ (s.scheduler .b1).queue = ⟨1, 0x41, none⟩ :: [] ∧ s.held .b1 ⟨1, 0x41, none⟩ = false
      ∧ (s.port .b1).receiver = .inTelegram 1 true)
    ∧ ((u.port .b1).monitor = .busy ∧ (u.port .b1).quiet = true ∧ (u.scheduler .b1).phase = .reserved
      ∧ u.held .b1 ⟨1, 0x41, none⟩ = false ∧ (u.port .b1).receiver = .discarding 0x30 9) := by decide +kernel

theorem witness_OpeningMakesRoom_pair (st : ExchangeState) :
    let m : ExchangeMonitor := ⟨many 15 .lapsed ++ [record1 st false], 16, 0⟩
    m.records.Pairwise (fun a b => ¬(a.target = b.target ∧ a.line = b.line)) ∧ m.records.length ≤ 16
      ∧ m.find .b1 0x41 = some (record1 st false) ∧ m.openCount .b1 < 2 := by
  cases st <;> decide +kernel

theorem witness_OpeningMakesRoom_refused :
    let m : ExchangeMonitor := ⟨many 16 .sending, 16, 0⟩
    m.records.Pairwise (fun a b => ¬(a.target = b.target ∧ a.line = b.line)) ∧ m.records.length = 16
      ∧ m.find .b1 0x41 = none ∧ m.records.all ExchangeRecord.isOpen = true := by decide +kernel

theorem witness_OpeningMakesRoom_depth :
    let m : ExchangeMonitor := ⟨many 15 .lapsed ++ [record1 .awaiting false], 16, 0⟩
    m.records.Pairwise (fun a b => ¬(a.target = b.target ∧ a.line = b.line)) ∧ m.records.length = 16
      ∧ m.find .b1 0x42 = none ∧ 1 ≤ m.openCount .b1 := by decide +kernel

theorem witness_OpeningMakesRoom_evicts :
    let m : ExchangeMonitor := ⟨many 16 .lapsed, 16, 0⟩
    m.records.Pairwise (fun a b => ¬(a.target = b.target ∧ a.line = b.line)) ∧ m.records.length = 16
      ∧ m.find .b1 0x41 = none ∧ m.records.any (fun r => !r.isOpen) = true ∧ m.openCount .b1 < 1 := by decide +kernel

theorem witness_BackoffEndRetries :
    let s := queued .backoff 1 0 none []
    (s.scheduler .b1).phase = .backoff ∧ (s.scheduler .b1).queue = ⟨1, 0x41, none⟩ :: [] ∧ (s.port .b1).quiet = true
      ∧ (s.port .b1).receiver = .idle ∧ (s.port .b1).monitor ≠ .spaceHeld := by decide +kernel

theorem witness_EchoCheckFindsCollision :
    let s := sending 0 2 0 []
    let f := (s.port .b1).format
    (s.scheduler .b1).phase = .onLine ∧ (s.scheduler .b1).queue = ⟨1, 0x41, none⟩ :: []
      ∧ (s.port .b1).receiver = .echo 0 ∧ 0 < (s.pool.descriptor 1).length
      ∧ (s.port .b1).transmitter = .sending f 0 (f.levels 0x41 true) 11 0 false ∧ (s.port .b1).charFormat = f
      ∧ f.width = .eight ∧ f.framing = .idleLine ∧ f.parity ≠ .noParity
      ∧ (s.port .b1).counters.collisions ≤ 65535 ∧ (s.scheduler .b1).attempts + 1 ≤ (s.port .b1).format.retryLimit
      ∧ (0x41 = s.pool.sentChar ⟨1, 0x41, none⟩ 0 ∧ false = f.parityBit 0x41 false)
      ∧ ¬(0x40 = s.pool.sentChar ⟨1, 0x41, none⟩ 0) := by decide +kernel

/-- `sending` in 7-bit ADDRESS_BIT format, its line address being compared. -/
def sendingMarked : State :=
  let f : FormatRecord := { defaultFormat [417] with width := .seven, framing := .addressBit }
  (sending 0 2 0 []).onPort .b1 fun x =>
    { x with transmitter := .sending f 0 (f.levels 0x41 true) 11 0 false, charReceiver := .inCharacter f 10 0 [] }

theorem witness_EchoCheckFindsCollision_marked :
    let f : FormatRecord := { defaultFormat [417] with width := .seven, framing := .addressBit }
    (sendingMarked.scheduler .b1).phase = .onLine ∧ (sendingMarked.scheduler .b1).queue = ⟨1, 0x41, none⟩ :: []
      ∧ (sendingMarked.port .b1).receiver = .echo 0 ∧ 0 < (sendingMarked.pool.descriptor 1).length
      ∧ (sendingMarked.port .b1).transmitter = .sending f 0 (f.levels 0x41 true) 11 0 false
      ∧ (sendingMarked.port .b1).charFormat = f ∧ (0x41 : Chr).toNat ≤ 0x7F ∧ f.framing = .addressBit
      ∧ f.parity ≠ .noParity ∧ false ≠ f.parityBit 0x41 true
      ∧ (sendingMarked.port .b1).counters.collisions ≤ 65535
      ∧ (sendingMarked.scheduler .b1).attempts + 1 ≤ (sendingMarked.port .b1).format.retryLimit
      ∧ (0x41 = f.fit (sendingMarked.pool.sentChar ⟨1, 0x41, none⟩ 0)
          ∧ true = decide (f.framing = .addressBit ∧ 0 = 0) ∧ true = f.parityBit 0x41 true) := by decide +kernel

theorem witness_EchoMissingBacksOff :
    let s := sending 0 2 0 []
    (s.scheduler .b1).phase = .onLine ∧ (s.scheduler .b1).queue = ⟨1, 0x41, none⟩ :: []
      ∧ (s.port .b1).receiver = .echo 0 ∧ 0 < (s.pool.descriptor 1).length
      ∧ (s.scheduler .b1).attempts + 1 ≤ (s.port .b1).format.retryLimit
      ∧ (s.port .b1).counters.collisions ≤ 65535 := by decide +kernel

/-- The head of `sending` past its retry limit, the trunk queue holding an entry, the table as given. -/
def failing (abandons : Nat) (rest : List QueueEntry) (rs : List ExchangeRecord) : State :=
  (withRecords rs (sending 0 3 abandons rest)).onPort .trunk fun x =>
    { x with scheduler := { x.scheduler with queue := [⟨2, 0x30, none⟩], phase := .reserved } }

/-- What every clause asks of the state. -/
theorem failing_abandons (abandons : Nat) (rest : List QueueEntry) (r : ExchangeRecord) :
    let s := failing abandons rest [r]
    (s.scheduler .b1).phase = .onLine ∧ (s.scheduler .b1).queue = ⟨1, 0x41, none⟩ :: rest
      ∧ (s.port .b1).receiver = .echo 0 ∧ 0 < (s.pool.descriptor 1).length
      ∧ (s.port .b1).format.retryLimit < (s.scheduler .b1).attempts + 1
      ∧ ((1 : DescNo) = 0 → s.trunk.pendingFormat = none ∧ s.agent.restartPending = none)
      ∧ (s.port .b1).admin = .active ∧ (s.port .b1).counters.collisions ≤ 65535 ∧ ExchangesSound s
      ∧ (∀ q, (s.scheduler q).phase ≠ .headHeld) ∧ s.trunk.pendingDepth = none :=
  ⟨rfl, rfl, rfl, (by decide +kernel : 0 < ((sending 0 3 0 []).pool.descriptor 1).length),
    (by decide +kernel : ((sending 0 3 0 []).port .b1).format.retryLimit < 4), fun h => (by cases h), rfl,
    (by decide +kernel : ((sending 0 3 0 []).port .b1).counters.collisions ≤ 65535), one_record_sound _ _,
    fun q => (by cases q <;> intro h <;> cases h), rfl⟩

/-- The collisions of `failing`: ECHO_MISSING, another value, another parity bit, and a character in error. -/
theorem witness_RetryLimitAbandonsHead_collision :
    let s := failing 2 [] [record1 .sending true]
    ∀ c ∈ [Instr.echoMissing .b1, .characterReport .b1 0x40 false true none, .characterReport .b1 0x41 false true none,
        .characterReport .b1 0x41 false true (some .parity), .characterReport .b1 0x41 false false (some .framing),
        .characterReport .b1 0x00 false false (some .brk)],
      Collision .b1 s ⟨1, 0x41, none⟩ 0 c := by
  intro s
  have report (v : Chr) (pb : Bool) (err : Option CharError)
      (h : (err = some .parity → pb ≠ (s.port .b1).format.parityBit v false)
        ∧ ¬(err = none ∧ v = (s.port .b1).format.fit (s.pool.sentChar ⟨1, 0x41, none⟩ 0)
            ∧ pb = (s.port .b1).format.parityBit v false)) :
      Collision .b1 s ⟨1, 0x41, none⟩ 0 (.characterReport .b1 v false pb err) :=
    .inr ⟨v, false, pb, err, (s.port .b1).format, 0, 11, 0, (s.port .b1).format.levels 0x41 true, false, rfl, rfl, rfl,
      .inl rfl, .inr rfl, .inl (by intro h; cases h), fun e => ⟨fun h => (by cases h), h.1 e⟩,
      (by decide +kernel : (s.port .b1).rxPin = .space → (s.port .b1).monitor ≠ .released),
      fun ⟨a, b, _, c⟩ => h.2 ⟨a, b, c.resolve_left (by intro h; cases h)⟩⟩
  intro c hc
  simp only [List.mem_cons, List.not_mem_nil, or_false] at hc
  obtain rfl | rfl | rfl | rfl | rfl | rfl := hc
  · exact .inl rfl
  all_goals exact report _ _ _ (by decide +kernel)

theorem witness_RetryLimitAbandonsHead_next :
    (failing 2 [⟨1, 0x42, none⟩] [record1 .lapsed false]).exchanges.sendingRecord .b1 1 = none
      ∧ min 15 (((failing 2 [] [record1 .lapsed false]).scheduler .b1).abandons + 1)
          < ((failing 2 [] [record1 .lapsed false]).port .b1).format.abandonLimit := by decide +kernel

theorem witness_RetryLimitAbandonsHead_record (standIn : Bool) :
    let s := failing 2 [] [record1 .sending standIn]
    s.exchanges.sendingRecord .b1 1 = some (record1 .sending standIn)
      ∧ min 15 ((s.scheduler .b1).abandons + 1) < (s.port .b1).format.abandonLimit := by
  cases standIn <;> decide +kernel

theorem witness_RetryLimitAbandonsHead_standIn :
    let s := failing 2 [] [record1 .sending true]
    CellsCanonical s ∧ s.agent.settings.inRanges = true ∧ (record1 .sending true).origin ≠ .b1
      ∧ StandInTaken { s with pool := s.pool.dropRef 1 } (record1 .sending true) .unreachable 1 8 :=
  ⟨canonical (by decide +kernel), by decide +kernel, by decide,
    ⟨by decide +kernel, by decide +kernel, by decide +kernel⟩⟩

theorem witness_RetryLimitAbandonsHead_contention :
    let s := failing 3 [⟨1, 0x42, none⟩] [record1 .lapsed false]
    Port.b1 ≠ .trunk ∧ (s.port .b1).format.abandonLimit ≤ min 15 ((s.scheduler .b1).abandons + 1)
      ∧ ∀ x ∈ s.exchanges.records, x.target = .b1 → x.isOpen = false := by decide +kernel

/-- At the abandon limit, the head's record in SENDING with stand-in OFF. -/
theorem witness_RetryLimitAbandonsHead_contention_record :
    let s := failing 3 [⟨1, 0x42, none⟩] [record1 .sending false]
    (∀ x ∈ s.exchanges.records, x.target = .b1 → x.isOpen = true → x.standIn = false)
      ∧ s.exchanges.sendingRecord .b1 1 = some (record1 .sending false) := by decide +kernel

/-- The management reply on the trunk's line past its retry limit. -/
theorem witness_RetryLimitAbandonsHead_trunk :
    let s := (after (.status 1) State.reset).onPort .trunk fun x =>
      { x with receiver := .echo 0, scheduler := { x.scheduler with phase := .onLine, attempts := 3, abandons := 15 } }
    (s.scheduler .trunk).queue = ⟨0, 0xF0, none⟩ :: [] ∧ (s.port .trunk).receiver = .echo 0
      ∧ 0 < (s.pool.descriptor 0).length
      ∧ (s.port .trunk).format.retryLimit < (s.scheduler .trunk).attempts + 1
      ∧ s.trunk.pendingFormat = none ∧ s.agent.restartPending = none ∧ (s.port .trunk).admin = .active
      ∧ (s.port .trunk).counters.collisions ≤ 65535 ∧ s.trunk.pendingDepth = none
      ∧ s.exchanges.sendingRecord .trunk 0 = none := by decide +kernel

theorem witness_CompletionStartsDeadline :
    let s := withRecords [record1 .sending true] (sending 1 0 3 [])
    ((s.scheduler .b1).phase = .onLine ∧ (s.scheduler .b1).queue = ⟨1, 0x41, none⟩ :: []
      ∧ (s.port .b1).receiver = .echo (s.pool.descriptor 1).length ∧ (1 : DescNo) ≠ 0
      ∧ (s.port .b1).counters.txTelegrams ≤ 65535
      ∧ s.exchanges.sendingRecord .b1 1 = some (record1 .sending true))
      ∧ ExchangesSound s := ⟨by decide +kernel, one_record_sound _ _⟩

theorem witness_CompletionStartsDeadline_plain :
    let s := withRecords [record1 .lapsed true] (sending 1 0 0 [⟨1, 0x42, none⟩])
    ((s.scheduler .b1).phase = .onLine ∧ (s.scheduler .b1).queue = ⟨1, 0x41, none⟩ :: [⟨1, 0x42, none⟩]
      ∧ (s.port .b1).receiver = .echo (s.pool.descriptor 1).length ∧ (1 : DescNo) ≠ 0
      ∧ (s.port .b1).counters.txTelegrams ≤ 65535 ∧ s.exchanges.sendingRecord .b1 1 = none)
      ∧ ExchangesSound s := ⟨by decide +kernel, one_record_sound _ _⟩

/-- The reply of a STATUS on the line, its echoes all compared good, nothing waiting for it. -/
theorem witness_CompletionStartsDeadline_reply :
    let s := (after (.status 1) State.reset).onPort .trunk fun x =>
      { x with receiver := .echo 15, scheduler := { x.scheduler with phase := .onLine } }
    ((s.scheduler .trunk).phase = .onLine ∧ (s.scheduler .trunk).queue = ⟨0, 0xF0, none⟩ :: []
      ∧ (s.port .trunk).receiver = .echo (s.pool.descriptor 0).length
      ∧ s.trunk.pendingFormat = none ∧ s.agent.restartPending = none
      ∧ (s.port .trunk).counters.txTelegrams ≤ 65535 ∧ s.exchanges.sendingRecord .trunk 0 = none)
      ∧ ExchangesSound s := ⟨by decide +kernel, ⟨(by decide : 0 ≤ 16), List.Pairwise.nil⟩⟩

/-- The reply of an accepted RESTART on the line, its echoes all compared good. -/
def leaving (value : Chr) : State :=
  (after (.restart 1 value) State.reset).onPort .trunk fun x =>
    { x with receiver := .echo 7, scheduler := { x.scheduler with phase := .onLine } }

theorem witness_ReplyLeavingRestarts :
    (((leaving 1).scheduler .trunk).phase = .onLine ∧ ((leaving 1).scheduler .trunk).queue = ⟨0, 0xF0, none⟩ :: []
      ∧ ((leaving 1).port .trunk).receiver = .echo ((leaving 1).pool.descriptor 0).length
      ∧ (leaving 1).trunk.pendingFormat = none ∧ (leaving 1).agent.restartPending = some .cold)
    ∧ (((leaving 0).scheduler .trunk).phase = .onLine ∧ ((leaving 0).scheduler .trunk).queue = ⟨0, 0xF0, none⟩ :: []
      ∧ ((leaving 0).port .trunk).receiver = .echo ((leaving 0).pool.descriptor 0).length
      ∧ (leaving 0).trunk.pendingFormat = none ∧ (leaving 0).agent.restartPending = some .warm) := by decide +kernel

theorem leaving_none_raised : Port.all.all (fun p => ((leaving 0).port p).completions.isEmpty) = true := by decide +kernel

/-- The reply of a trunk PORT_FORMAT on the line, the records toward the trunk as given. -/
def formatted (depth : Nat) (rs : List ExchangeRecord) : State :=
  let s := withRecords rs (leaving 2)
  { s with trunk := { s.trunk with pendingFormat := some { defaultFormat [104] with overlap := depth } } }

theorem witness_ReplyLeavingRestarts_format :
    let rs : List ExchangeRecord := [{ record1 .awaiting false with target := .trunk, origin := .b1 }]
    (let s := formatted 1 rs
     (s.scheduler .trunk).phase = .onLine ∧ (s.scheduler .trunk).queue = ⟨0, 0xF0, none⟩ :: []
       ∧ (s.port .trunk).receiver = .echo (s.pool.descriptor 0).length ∧ s.agent.restartPending = none
       ∧ s.exchanges.sendingRecord .trunk 0 = none ∧ s.exchanges.openCount .trunk = 1)
    ∧ (formatted 0 rs).exchanges.openCount .trunk = 1
    ∧ ∀ q, ((formatted 1 rs).scheduler q).phase ≠ .headHeld :=
  ⟨by decide +kernel, by decide +kernel, every_port (by decide +kernel)⟩

/-- The reply past its retry limit, before a restart and before a format of overlap depth 1 or 0 with one record toward
the trunk. -/
theorem witness_ReplyLeavingRestarts_abandon :
    let past (s : State) : State := s.onPort .trunk fun x =>
      { x with receiver := .echo 6, scheduler := { x.scheduler with attempts := 3, abandons := 15 } }
    let rs : List ExchangeRecord := [{ record1 .awaiting false with target := .trunk, origin := .b1 }]
    ([past (leaving 0), past (leaving 1), past (formatted 1 rs), past (formatted 0 rs)].all fun s =>
        decide ((s.scheduler .trunk).phase = .onLine ∧ (s.scheduler .trunk).queue = ⟨0, 0xF0, none⟩ :: []
          ∧ (s.port .trunk).receiver = .echo 6 ∧ 6 < (s.pool.descriptor 0).length
          ∧ (s.port .trunk).format.retryLimit < (s.scheduler .trunk).attempts + 1
          ∧ s.exchanges.sendingRecord .trunk 0 = none ∧ (s.port .trunk).counters.collisions ≤ 65535)) = true
    ∧ ((past (leaving 0)).trunk.pendingFormat = none ∧ (past (leaving 0)).agent.restartPending = some .warm
      ∧ (past (leaving 1)).trunk.pendingFormat = none ∧ (past (leaving 1)).agent.restartPending = some .cold
      ∧ (past (formatted 1 rs)).trunk.pendingFormat.isSome = true ∧ (past (formatted 1 rs)).agent.restartPending = none
      ∧ (past (formatted 1 rs)).exchanges.openCount .trunk = 1)
    ∧ ∀ q, ((past (formatted 1 rs)).scheduler q).phase ≠ .headHeld :=
  ⟨by decide +kernel, by decide +kernel, every_port (by decide +kernel)⟩

/-- Where no character of the reply has been sent, its echo differs or is in error. -/
theorem witness_ReplyLeavingRestarts_collision :
    let s := (leaving 0).onPort .trunk fun x =>
      { x with
        receiver := .echo 0, transmitter := .sending x.format 0 (x.format.levels 0xF0 true) 11 0 false
        charReceiver := .inCharacter x.format 10 0 [], scheduler := { x.scheduler with attempts := 3 } }
    Collision .trunk s ⟨0, 0xF0, none⟩ 0 (.characterReport .trunk 0xF1 false false none)
      ∧ Collision .trunk s ⟨0, 0xF0, none⟩ 0 (.characterReport .trunk 0xF0 false false (some .framing)) :=
  ⟨.inr ⟨0xF1, false, false, none, _, 0, 11, 0, _, false, rfl, rfl, rfl, .inl rfl, .inr rfl, .inr rfl,
      (fun h => by cases h), by decide +kernel, by decide +kernel⟩,
    .inr ⟨0xF0, false, false, some .framing, _, 0, 11, 0, _, false, rfl, rfl, rfl, .inl rfl, .inr rfl, .inr rfl,
      (fun h => by cases h), by decide +kernel, by decide +kernel⟩⟩

theorem witness_DriverReleaseAfterCut :
    ((after (.echoMissing .b1) (sending 0 0 0 [])).port .b1).transmitter =
      .sending (defaultFormat [417, 417, 416]) 0 ((defaultFormat [417, 417, 416]).levels 0x41 true) 11 0 true
      ∧ ((after (.echoMissing .b1) (sending 0 0 0 [])).port .b1).receiver = .echo 0 := by decide +kernel

/-- The completion of `raised`, undamaged, under the given address. -/
def whole (a : Chr) : Completion := ⟨a, some 1, 1, false, none⟩

theorem witness_LiveHitIsQueued :
    let s := raised .b1 0x41 none (two (withRoutes [route1 (some ⟨1, 4, .retire⟩) false] [] .clean idle1))
    ((s.port .b1).completions = whole 0x41 :: [] ∧ (1 : DescNo) ≠ 0
      ∧ ¬(Port.b1 = .trunk ∧ (0x41 : Chr) = s.mgmtAddress) ∧ s.exchanges.find .b1 0x41 = none
      ∧ s.agent.forwarding = true
      ∧ s.routes.lookup .b1 0x41 = .live (route1 (some ⟨1, 4, .retire⟩) false) .first
      ∧ (route1 (some ⟨1, 4, .retire⟩) false).destinationList = [.b2] ∧ Port.b2 ≠ .b1
      ∧ s.filter .b2 0x41 false = none ∧ (s.pool.descriptor 1).refs = 1
      ∧ (s.port .b1).counters.rxTelegrams ≤ 65535)
      ∧ ∀ r, s.exchanges.find .b1 0x41 = some r → r.state ≠ .answering :=
  ⟨by decide +kernel, fun r h => by cases h⟩

/-- A lookup that hits LIVE, one that hits RETIRED and one that misses. -/
theorem witness_LiveHitIsQueued_lookup :
    (∀ x ∈ [route1 none false], x.arrival = .b1 → x.address = 0x41 → x = route1 none false)
      ∧ (∀ x ∈ [route1 (some ⟨0, 4, .retire⟩) true], x.arrival = .b1 → x.address = 0x41 → x.retired = true)
      ∧ ∀ x ∈ [route1 none false], ¬(x.arrival = .b1 ∧ x.address = 0x42) := by decide +kernel

/-- A hit on an entry with a reply whose one destination, B2, is down. -/
theorem witness_LiveHitIsQueued_leftOut :
    let x : RouteEntry := { route1 none false with reply := some ⟨200, true⟩ }
    let s := raised .b1 0x41 none (withRoutes [x] [] .clean idle1)
    ((s.port .b1).completions = whole 0x41 :: [] ∧ ¬(Port.b1 = .trunk ∧ (0x41 : Chr) = s.mgmtAddress)
      ∧ s.agent.forwarding = true ∧ s.routes.lookup .b1 0x41 = .live x .first ∧ x.destinationList = [.b2]
      ∧ s.filter .b2 (x.egress.getD 0x41) false = some .portDown
      ∧ (s.port .b1).counters.rxTelegrams ≤ 65535 ∧ (s.port .b1).counters.rxDiscarded ≤ 65535)
      ∧ ∀ r, s.exchanges.find .b1 0x41 = some r → r.state ≠ .answering :=
  ⟨by decide +kernel, fun r h => by cases h⟩

/-- The entry (B1, 41h) to the trunk, B2 and B3. -/
def spread : RouteEntry := ⟨.b1, 0x41, ⟨true, false, true, true, false⟩, none, none, none, false⟩

/-- Three destinations, B3 DISABLED and the trunk queue as given. -/
def spreading (waiting : List QueueEntry) : State :=
  (raised .b1 0x41 none (two (withRoutes [spread] [] .clean idle1))).onPort .trunk fun x =>
    { x with scheduler := { x.scheduler with queue := waiting, phase := .reserved } }

theorem witness_LiveHitIsQueued_several :
    let s := spreading (List.replicate 15 ⟨2, 0x30, none⟩)
    ((s.port .b1).completions = whole 0x41 :: [] ∧ (1 : DescNo) ≠ 0
      ∧ ¬(Port.b1 = .trunk ∧ (0x41 : Chr) = s.mgmtAddress) ∧ s.agent.forwarding = true
      ∧ s.routes.lookup .b1 0x41 = .live spread .first ∧ spread.reply = none ∧ .b1 ∉ spread.destinationList
      ∧ [Port.b2] = spread.destinationList.filter (fun q => decide (s.filter q 0x41 false = none))
      ∧ s.filter .trunk 0x41 false = some .queueFull ∧ s.filter .b3 0x41 false = some .portDown
      ∧ (s.pool.descriptor 1).refs = 1 ∧ (s.port .b1).counters.rxTelegrams ≤ 65535
      ∧ (s.port .b1).counters.rxDiscarded ≤ 65535)
      ∧ ∀ r, s.exchanges.find .b1 0x41 = some r → r.state ≠ .answering :=
  ⟨by decide +kernel, fun r h => by cases h⟩

/-- Every destination left out. -/
theorem witness_LiveHitIsQueued_none :
    let s := (spreading (List.replicate 15 ⟨2, 0x30, none⟩)).onPort .b2 fun x => { x with admin := .faulted }
    [] = spread.destinationList.filter (fun q => decide (s.filter q 0x41 false = none)) := by decide +kernel

/-- A miss on B1 under PASS_TO_TRUNK, `n` ordinary entries waiting on the trunk. -/
def passing (a : Chr) (n : Nat) : State :=
  ((raised .b1 a none (withRoutes [] [] .clean idle1)).onPort .b1 fun x =>
      { x with format := { x.format with miss := .passToTrunk } }).onPort .trunk fun x =>
    { x with scheduler := { x.scheduler with queue := List.replicate n ⟨2, 0x30, none⟩ } }

theorem witness_LiveHitIsQueued_passed :
    (let s := passing 0x42 14
     (s.port .b1).completions = whole 0x42 :: [] ∧ (1 : DescNo) ≠ 0 ∧ Port.b1 ≠ .trunk
      ∧ s.exchanges.find .b1 0x42 = none ∧ s.agent.forwarding = true ∧ s.routes.lookup .b1 0x42 = .miss
      ∧ (s.port .b1).format.miss = .passToTrunk ∧ (s.pool.descriptor 1).refs = 1
      ∧ (s.port .b1).counters.rxTelegrams ≤ 65535 ∧ (s.port .b1).counters.rxDiscarded ≤ 65535
      ∧ (0x42 : Chr) ≠ s.mgmtAddress
      ∧ ((s.scheduler .trunk).queue.filter fun y => decide (y.desc ≠ 0)).length < 15)
    ∧ 15 ≤ (((passing 0x42 15).scheduler .trunk).queue.filter fun y => decide (y.desc ≠ 0)).length
    ∧ ((passing 0xF0 0).port .b1).completions = whole 0xF0 :: [] ∧ (0xF0 : Chr) = (passing 0xF0 0).mgmtAddress := by
  decide +kernel

theorem passing_in_service (a : Chr) (n : Nat) : TrunkInService (passing a n) := ⟨rfl, rfl, fun f h => by cases h⟩

theorem witness_TelegramsNotForwarded_off :
    let s := raised .b1 0x41 none idle1
    ((s.port .b1).completions = whole 0x41 :: [] ∧ ¬(Port.b1 = .trunk ∧ (0x41 : Chr) = s.mgmtAddress)
      ∧ s.agent.forwarding = false ∧ (s.port .b1).counters.rxTelegrams ≤ 65535
      ∧ (s.port .b1).counters.rxDiscarded ≤ 65535)
      ∧ ∀ r, s.exchanges.find .b1 0x41 = some r → r.state ≠ .answering :=
  ⟨by decide +kernel, fun r h => by cases h⟩

theorem witness_TelegramsNotForwarded_retired :
    let s := raised .b1 0x41 none (withRoutes [route1 (some ⟨0, 4, .retire⟩) true] [] .clean idle1)
    ((s.port .b1).completions = whole 0x41 :: [] ∧ ¬(Port.b1 = .trunk ∧ (0x41 : Chr) = s.mgmtAddress)
      ∧ s.agent.forwarding = true ∧ s.routes.lookup .b1 0x41 = .retired
      ∧ (s.port .b1).counters.rxTelegrams ≤ 65535 ∧ (s.port .b1).counters.rxDiscarded ≤ 65535)
      ∧ ∀ r, s.exchanges.find .b1 0x41 = some r → r.state ≠ .answering :=
  ⟨by decide +kernel, fun r h => by cases h⟩

theorem witness_TelegramsNotForwarded_miss :
    let s := raised .b1 0x42 none (withRoutes [route1 none false] [] .clean idle1)
    ((s.port .b1).completions = whole 0x42 :: [] ∧ ¬(Port.b1 = .trunk ∧ (0x42 : Chr) = s.mgmtAddress)
      ∧ s.agent.forwarding = true ∧ s.routes.lookup .b1 0x42 = .miss ∧ (s.port .b1).format.miss ≠ .passToTrunk
      ∧ (s.port .b1).counters.rxTelegrams ≤ 65535 ∧ (s.port .b1).counters.rxDiscarded ≤ 65535)
      ∧ ∀ r, s.exchanges.find .b1 0x42 = some r → r.state ≠ .answering :=
  ⟨by decide +kernel, fun r h => by cases h⟩

theorem witness_TelegramsNotForwarded_damaged (dm : Damage) :
    let s := raised .b1 0x41 (some dm) idle1
    (s.port .b1).completions = ⟨0x41, some 1, 1, false, some dm⟩ :: [] ∧ s.exchanges.find .b1 0x41 = none
      ∧ (s.port .b1).counters.rxTelegrams ≤ 65535 ∧ (s.port .b1).counters.rxDiscarded ≤ 65535 := by
  cases dm <;> decide +kernel

theorem witness_TelegramsNotForwarded_noDescriptor :
    let s := idle1.onPort .b1 fun x => { x with completions := [⟨0x41, none, 256, false, none⟩] }
    (s.port .b1).completions = ⟨0x41, none, 256, false, none⟩ :: [] ∧ s.exchanges.find .b1 0x41 = none
      ∧ (s.port .b1).counters.rxTelegrams ≤ 65535 ∧ (s.port .b1).counters.rxDiscarded ≤ 65535 := by decide +kernel

/-- A damaged completion of descriptor 1 on the pair of the given record. -/
def damaged1 (r : ExchangeRecord) : State :=
  (withRecords [r] (raised .b1 0x41 (some .parity) idle1)).onPort .trunk fun x =>
    { x with scheduler := { x.scheduler with queue := [⟨2, 0x30, none⟩], phase := .reserved } }

theorem witness_TelegramsNotForwarded_record (st : ExchangeState) (late standIn : Bool) :
    let r : ExchangeRecord := { record1 st standIn with lateHold := late }
    let s := damaged1 r
    (s.port .b1).completions = ⟨0x41, some 1, 1, false, some .parity⟩ :: [] ∧ s.exchanges.find .b1 0x41 = some r
      ∧ ExchangesSound s ∧ (∀ q, (s.scheduler q).phase ≠ .headHeld) ∧ s.trunk.pendingDepth = none
      ∧ (s.port .b1).counters.rxTelegrams ≤ 65535 ∧ (s.port .b1).counters.rxDiscarded ≤ 65535 :=
  ⟨rfl, rfl, one_record_sound _ _, fun q => (by cases q <;> intro h <;> cases h), rfl,
    (by decide +kernel : (idle1.port .b1).counters.rxTelegrams ≤ 65535),
    (by decide +kernel : (idle1.port .b1).counters.rxDiscarded ≤ 65535)⟩

theorem witness_TelegramsNotForwarded_standIn :
    let r := record1 .answering true
    r.origin ≠ .b1 ∧ CellsCanonical (damaged1 r) ∧ (damaged1 r).agent.settings.inRanges = true
      ∧ StandInTaken (damaged1 r) r .damaged 2 9 :=
  ⟨by decide, canonical (by decide +kernel), by decide +kernel,
    ⟨by decide +kernel, by decide +kernel, by decide +kernel⟩⟩

theorem witness_TelegramsNotForwarded_request :
    let s := raised .trunk 0xF0 none State.reset
    (s.port .trunk).completions = whole 0xF0 :: [] ∧ (0xF0 : Chr) = s.mgmtAddress
      ∧ (s.port .trunk).counters.rxTelegrams ≤ 65535 := by decide +kernel

/-- An entry stands already in the trunk queue, for the answer of a record of B1 to join. -/
def answered : State :=
  (withRecords [record1 .answering false] (raised .b1 0x41 none idle1)).onPort .trunk fun x =>
    { x with scheduler := { x.scheduler with queue := [⟨2, 0x30, none⟩], phase := .reserved } }

theorem witness_ReplyIsCarriedToOrigin :
    ((answered.port .b1).completions = whole 0x41 :: [] ∧ (1 : DescNo) ≠ 0
      ∧ ¬(Port.b1 = .trunk ∧ (0x41 : Chr) = answered.mgmtAddress)
      ∧ answered.exchanges.find .b1 0x41 = some (record1 .answering false)
      ∧ answered.filter .trunk 0x31 false = none ∧ Port.trunk ≠ .b1 ∧ (answered.scheduler .trunk).queue ≠ []
      ∧ (answered.pool.descriptor 1).refs = 1 ∧ (answered.port .b1).counters.rxTelegrams ≤ 65535
      ∧ answered.trunk.pendingDepth = none)
      ∧ ExchangesSound answered ∧ ∀ q, (answered.scheduler q).phase ≠ .headHeld :=
  ⟨by decide +kernel, ⟨(by decide : 1 ≤ 16), List.pairwise_singleton _ _⟩, every_port (by decide +kernel)⟩

/-- `answered` with the trunk queue full, and with the record's origin the branch B2, which is down. -/
theorem witness_ReplyIsCarriedToOrigin_leftOut :
    let r : ExchangeRecord := { record1 .answering true with origin := .b2 }
    let full := answered.onPort .trunk fun x =>
      { x with scheduler := { x.scheduler with queue := List.replicate 15 ⟨2, 0x30, none⟩ } }
    let down := withRecords [r] answered
    ((full.port .b1).completions = whole 0x41 :: [] ∧ full.exchanges.find .b1 0x41 = some (record1 .answering false)
      ∧ full.filter .trunk 0x31 false = some .queueFull ∧ (full.port .b1).counters.rxTelegrams ≤ 65535
      ∧ (full.port .b1).counters.rxDiscarded ≤ 65535 ∧ full.trunk.pendingDepth = none)
    ∧ (down.exchanges.find .b1 0x41 = some r ∧ down.filter .b2 0x31 false = some .portDown)
    ∧ (ExchangesSound full ∧ ExchangesSound down)
    ∧ (∀ q, (full.scheduler q).phase ≠ .headHeld) ∧ ∀ q, (down.scheduler q).phase ≠ .headHeld :=
  ⟨by decide +kernel, by decide +kernel,
    ⟨⟨(by decide : 1 ≤ 16), List.pairwise_singleton _ _⟩, one_record_sound _ _⟩,
    every_port (by decide +kernel), every_port (by decide +kernel)⟩

/-- B2 and the trunk with `n` entries waiting. -/
def filled (n : Nat) : State :=
  ((two idle1).onPort .b2 fun x =>
      { x with
        format := { x.format with width := .seven }
        scheduler := { x.scheduler with queue := List.replicate n ⟨1, 0x41, none⟩ } }).onPort .trunk fun x =>
    { x with scheduler := { x.scheduler with queue := ⟨0, 0xF0, none⟩ :: List.replicate n ⟨1, 0x41, none⟩ } }

theorem witness_FilterReasonsInOrder :
    (idle1.port .b2).admin ≠ .active
      ∧ (((filled 0).port .b2).admin = .active ∧ ((filled 0).port .b2).format.width = .seven
          ∧ 0x7F < (0x80 : Chr).toNat)
      ∧ (((filled 16).port .b2).admin = .active ∧ (0x7F : Chr).toNat ≤ 0x7F ∧ 16 ≤ ((filled 16).scheduler .b2).queue.length)
      ∧ (((filled 15).port .trunk).admin = .active ∧ ((filled 15).port .trunk).format.width = .eight
          ∧ 15 ≤ (((filled 15).scheduler .trunk).queue.filter fun x => decide (x.desc ≠ 0)).length)
      ∧ ((filled 15).scheduler .b2).queue.length < 16
      ∧ (((filled 14).scheduler .trunk).queue.filter fun x => decide (x.desc ≠ 0)).length < 15 := by decide +kernel

/-- The two banks as a state of `idle1` holds them. -/
theorem banks_sound {act shadow : List RouteEntry} {st : ShadowState} (h : st ≠ .reseeding)
    (ha : BankSound idle1.mgmtAddress act) (hs : BankSound idle1.mgmtAddress shadow) :
    BanksSound (withRoutes act shadow st idle1) := ⟨ha, hs, fun x => absurd x h⟩

theorem empty_bank_sound (m : Chr) : BankSound m [] :=
  ⟨by decide, List.Pairwise.nil, fun e h => by cases h⟩

/-- A bank of one sound entry is sound. -/
theorem one_bank_sound {m : Chr} {e : RouteEntry} (h : e.sound m) : BankSound m [e] :=
  ⟨by simp, List.pairwise_singleton _ _, fun x hx => by rw [List.mem_singleton.mp hx]; exact h⟩

theorem witness_CountReportSpendsAllowance_first (mode : AllowanceMode) (n : Nat) (h : 1 ≤ n) (k : n ≤ 65535) :
    let x := route1 (some ⟨n, 4, mode⟩) false
    let s := withRoutes [x] [] .clean idle1
    s.routes.activeBank = [] ++ x :: [] ∧ x.arrival = .b1 ∧ x.address = 0x41 ∧ BanksSound s ∧ s.routes.active = .first
      ∧ x.allowance = some ⟨n, 4, mode⟩ ∧ x.retired = false :=
  ⟨rfl, rfl, rfl,
    banks_sound (by decide) (one_bank_sound
      ⟨(by decide +kernel : (route1 none false).legal idle1.mgmtAddress = true), by simp [route1]; omega⟩) (empty_bank_sound _),
    rfl, rfl, rfl⟩

theorem witness_CountReportSpendsAllowance_retired :
    let x := route1 (some ⟨0, 4, .retire⟩) true
    let s := withRoutes [x] [] .clean idle1
    s.routes.activeBank = [] ++ x :: [] ∧ x.arrival = .b1 ∧ x.address = 0x41 ∧ BanksSound s ∧ x.retired = true
      ∧ BankId.second ≠ s.routes.active :=
  ⟨rfl, rfl, rfl,
    banks_sound (by decide) (one_bank_sound ⟨by decide +kernel, by simp [route1]⟩) (empty_bank_sound _),
    rfl, by decide +kernel⟩

/-- Validation of the given shadow bank at its first entry, B1 or B2 being 7-bit as given. -/
def validating (shadow : List RouteEntry) (w1 w2 : DataWidth) : State :=
  ((executing 0x0B (withRoutes [] shadow .validating idle1)).onPort .b1 fun x =>
    { x with format := { x.format with width := w1 } }).onPort .b2 fun x =>
    { x with format := { x.format with width := w2 } }

/-- `route1` under the lowest address that does not fit a 7-bit port. -/
def wideRoute : RouteEntry := { route1 none false with address := 0x80 }

theorem witness_ValidationChecksShadow_conflict :
    let s := validating [wideRoute] .seven .seven
    CellsCanonical s ∧ s.routes.shadow = .validating ∧ s.routes.shadowBank[s.routes.validatePos]? = some wideRoute
      ∧ s.agent.executing = some ⟨1, 0x0B⟩ ∧ wideRoute.conflict s.widths = some .widthKey
      ∧ wideRoute.conflict (validating [wideRoute] .eight .seven).widths = some .widthEgress :=
  ⟨canonical (by decide +kernel), by decide +kernel⟩

theorem witness_ValidationChecksShadow_pass :
    let s := validating [route1 none false, wideRoute] .eight .eight
    CellsCanonical s ∧ s.routes.shadow = .validating
      ∧ s.routes.shadowBank[s.routes.validatePos]? = some (route1 none false)
      ∧ s.agent.executing = some ⟨1, 0x0B⟩ ∧ (route1 none false).conflict s.widths = none
      ∧ s.routes.validatePos + 1 < s.routes.shadowBank.length :=
  ⟨canonical (by decide +kernel), by decide +kernel⟩

theorem witness_ValidationChecksShadow_last :
    let s := validating [route1 none false] .eight .eight
    CellsCanonical s ∧ s.routes.shadow = .validating
      ∧ s.routes.shadowBank[s.routes.validatePos]? = some (route1 none false)
      ∧ s.agent.executing = some ⟨1, 0x0B⟩ ∧ (route1 none false).conflict s.widths = none
      ∧ s.routes.shadowBank.length ≤ s.routes.validatePos + 1 :=
  ⟨canonical (by decide +kernel), by decide +kernel⟩

theorem witness_ReseedCopiesActive :
    let s := withRoutes [route1 none false, wideRoute] [] .reseeding idle1
    let u := withRoutes [route1 none false] [] .reseeding idle1
    (CellsCanonical s ∧ s.routes.shadow = .reseeding ∧ s.routes.activeBank[s.routes.reseedPos]? = some (route1 none false)
      ∧ s.routes.reseedPos + 1 < s.routes.activeBank.length)
    ∧ (CellsCanonical u ∧ u.routes.shadow = .reseeding ∧ u.routes.activeBank[u.routes.reseedPos]? = some (route1 none false)
      ∧ u.routes.activeBank.length ≤ u.routes.reseedPos + 1 ∧ u.agent.executing = none)
    ∧ (executing 0x0C u).agent.executing = some ⟨1, 0x0C⟩ :=
  ⟨⟨canonical (by decide +kernel), by decide +kernel⟩, ⟨canonical (by decide +kernel), by decide +kernel⟩, rfl⟩

theorem witness_DeadlineAndLinger_lost :
    let s := noDescriptor (withRecords [record1 .awaiting true] idle1)
    (s.exchanges.find .b1 0x41 = some (record1 .awaiting true) ∧ s.trunk.pendingDepth = none
      ∧ (record1 .awaiting true).standIn = true ∧ s.pool.freeDescriptor? = none)
      ∧ ExchangesSound s ∧ ∀ q, (s.scheduler q).phase ≠ .headHeld :=
  ⟨by decide +kernel, ⟨(by decide : 1 ≤ 16), List.pairwise_singleton _ _⟩, every_port (by decide +kernel)⟩

theorem witness_DeadlineAndLinger (st : ExchangeState) (late : Bool) :
    let r : ExchangeRecord := { record1 st false with lateHold := late }
    let s := withRecords [r] idle1
    s.exchanges.find .b1 0x41 = some r ∧ s.trunk.pendingDepth = none ∧ ExchangesSound s
      ∧ ∀ q, (s.scheduler q).phase ≠ .headHeld :=
  ⟨rfl, rfl, one_record_sound _ _, idle1_heads⟩

/-- Records that an expiry leaves as they are, and a pair without a record. -/
theorem witness_DeadlineAndLinger_ignored :
    (withRecords [record1 .answering true] idle1).exchanges.find .b1 0x41 = some (record1 .answering true)
      ∧ (record1 .answering true).state ≠ .awaiting ∧ (record1 .answering true).state ≠ .lapsed
      ∧ idle1.exchanges.find .b1 0x41 = none := by decide +kernel

/-- Two records toward the trunk, an overlap depth pending. -/
def settling (depth : Nat) : State :=
  let r : ExchangeRecord := { record1 .awaiting false with target := .trunk, origin := .b1 }
  let s := withRecords [r, { r with line := 0x42, seq := 1 }] idle1
  { s with trunk := { s.trunk with pendingDepth := some depth } }

theorem witness_DeadlineAndLinger_depth (depth : Nat) :
    (settling depth).exchanges.find .trunk 0x41 =
        some { record1 .awaiting false with target := .trunk, origin := .b1 }
      ∧ (settling depth).trunk.pendingDepth = some depth ∧ (settling depth).exchanges.openCount .trunk = 2
      ∧ ExchangesSound (settling depth) ∧ ∀ q, ((settling depth).scheduler q).phase ≠ .headHeld :=
  ⟨rfl, rfl, rfl, ⟨(by decide : 2 ≤ 16), by simp [settling, withRecords, record1]⟩, idle1_heads⟩

/-- A head of B2 in HEAD_HELD, with the given request, monitor state and table. -/
def holding (req : Option ExchangeRequest) (l : LineMonitor) (rs : List ExchangeRecord) : State :=
  (withRecords rs (two idle1)).onPort .b2 fun x =>
    { x with monitor := l, scheduler := { x.scheduler with queue := [⟨2, 0x30, req⟩], phase := .headHeld } }

/-- `s` once its record toward (B1, 41h) has lapsed. -/
def lapsed (s : State) : State :=
  let r := record1 .awaiting false
  { s with
    notices := s.notices.post .exchangeClosed (some .b1) (some 0x41) (some 1)
    exchanges := { s.exchanges with records := s.exchanges.records.map fun x =>
      if x = r then { r with state := .lapsed, remaining := r.window, lateHold := false } else x } }

theorem witness_DeadlineAndLinger_held (req : Option ExchangeRequest) (l : LineMonitor) :
    let s := holding req l [record1 .awaiting false]
    s.exchanges.find .b1 0x41 = some (record1 .awaiting false) ∧ ExchangesSound s ∧ s.trunk.pendingDepth = none
      ∧ (∀ q, (s.scheduler q).phase = .headHeld ↔ q = .b2) ∧ (s.scheduler .b2).queue = ⟨2, 0x30, req⟩ :: [] :=
  ⟨rfl, one_record_sound _ _, rfl,
    every_port (by
      intro q hq
      cases q <;> first
        | exact ⟨fun _ => rfl, fun _ => rfl⟩
        | exact ⟨fun h => (by cases h), fun h => (by cases h)⟩), rfl⟩

/-- The three outcomes: still held by a record of its own port, RESERVED on a busy line, started with its opening. -/
theorem witness_DeadlineAndLinger_decided :
    let own : ExchangeRecord := { record1 .awaiting false with target := .b2, line := 0x31, seq := 1 }
    (lapsed (holding none .busy [record1 .awaiting false, own])).held .b2 ⟨2, 0x30, none⟩ = true
    ∧ ((lapsed (holding none .busy [record1 .awaiting false])).held .b2 ⟨2, 0x30, none⟩ = false
        ∧ ((holding none .busy [record1 .awaiting false]).port .b2).monitor ≠ .released)
    ∧ (let s := holding (some request1) .released [record1 .awaiting false]
       (lapsed s).held .b2 ⟨2, 0x30, some request1⟩ = false ∧ (s.port .b2).monitor = .released
         ∧ (s.port .b2).driverEnable = false ∧ (s.port .b2).receiver = .idle
         ∧ ((lapsed s).exchanges.opening (s.port .b2).format.overlap .b2 ⟨2, 0x30, some request1⟩ request1).isSome
             = true) := by decide +kernel

/-- `answered` with its record AWAITING and stand-in ON. -/
def expiring : State := withRecords [record1 .awaiting true] answered

theorem witness_StandInReplyIsQueued :
    (CellsCanonical expiring ∧ ExchangesSound expiring)
      ∧ (expiring.agent.settings.inRanges = true
      ∧ expiring.exchanges.find .b1 0x41 = some (record1 .awaiting true)
      ∧ expiring.pool.freeDescriptor? = some 2 ∧ expiring.pool.free = 9 :: generalCells.tail.tail
      ∧ expiring.filter .trunk 0x31
          (((expiring.agent.settings.standInReply 0x31 .noAnswer).drop 1).any fun x => decide (0x7F < x.toNat)) = none
      ∧ (expiring.scheduler .trunk).queue ≠ [] ∧ expiring.trunk.pendingDepth = none)
      ∧ ∀ q, (expiring.scheduler q).phase ≠ .headHeld :=
  ⟨⟨canonical (by decide +kernel), one_record_sound _ _⟩, by decide +kernel, every_port (by decide +kernel)⟩

/-- The origin's queue empty, its line busy and its line free, and the origin's queue full. -/
theorem witness_StandInReplyIsQueued_origin :
    let s (m : LineMonitor) (q : List QueueEntry) : State := expiring.onPort .trunk fun x =>
      { x with monitor := m, scheduler := { x.scheduler with queue := q, phase := if q.isEmpty then .empty else .reserved } }
    (([s .busy [], s .released [], s .busy (List.replicate 15 ⟨2, 0x30, none⟩)].all fun s =>
        decide (s.agent.settings.inRanges = true ∧ s.exchanges.find .b1 0x41 = some (record1 .awaiting true)
          ∧ s.pool.freeDescriptor? = some 2 ∧ s.pool.free = 9 :: generalCells.tail.tail ∧ s.trunk.pendingDepth = none
          ∧ ∀ q ∈ Port.all, (s.scheduler q).phase ≠ .headHeld)) = true)
      ∧ ((s .busy []).filter .trunk 0x31 true = none ∧ ((s .busy []).scheduler .trunk).queue = []
        ∧ (s .released []).filter .trunk 0x31 true = none ∧ ((s .released []).port .trunk).driverEnable = false
        ∧ (s .busy (List.replicate 15 ⟨2, 0x30, none⟩)).filter .trunk 0x31 true = some .queueFull)
      ∧ expiring.pool.free.Pairwise (· < ·) := ⟨by decide +kernel, by decide +kernel, by decide +kernel⟩

theorem witness_StandInReplyIsQueued_template (k : CheckKind) :
    ({ defaultSettings with length := 8, reasonPos := 7, check := k } : Settings).inRanges = true := by
  cases k <;> decide +kernel

/-- The Notice Queue with `n` records. -/
def noted (n : Nat) (s : State) : State :=
  { s with notices := { s.notices with records := List.replicate n ⟨0, .mgmtOverrun, some .trunk, none, none⟩ } }

theorem witness_PostStampsAndStores :
    (noted 31 State.reset).notices.records.length < 32 ∧ 32 ≤ (noted 32 State.reset).notices.records.length := by
  decide +kernel

/-- After a STATUS whose reply has left. -/
def replied : State :=
  let t := after (.status 1) State.reset
  { t with pool := t.pool.dropRef 0 }

theorem witness_GatesDiscardAndReplay :
    ((Instr.status 1).requestOf = some (⟨1, 0x01⟩, [])
      ∧ ((after (.status 1) State.reset).pool.descriptor 0).refs ≠ 0
      ∧ (executing 0x0B State.reset).agent.executing ≠ none)
    ∧ ((replied.pool.descriptor 0).refs = 0 ∧ replied.agent.executing = none
      ∧ replied.agent.replay = some ⟨1, 0x01⟩) := by decide +kernel

theorem witness_RequestIsDispatched :
    let s := handed (signed ([0xF0, 0x02, 0x07] ++ [0x01]))
    s.agent.requests = 1 :: [] ∧ [(0x01 : Chr)].length ≤ 59
      ∧ (Instr.forwarding 0x07 0x01).requestOf = some (⟨0x07, 0x02⟩, [0x01])
      ∧ s.pool.telegram 1 = [0xF0, 0x02, 0x07] ++ [0x01] ++ twoChars (crc16 ([0xF0, 0x02, 0x07] ++ [0x01])) := by
  decide +kernel

theorem witness_RequestIsDispatched_unknown :
    let s := handed (signed ([0xF0, 0x13, 0x07] ++ []))
    (CellsCanonical s ∧ Ready s ⟨0x07, 0x13⟩)
      ∧ s.agent.requests = 1 :: [] ∧ (1 : DescNo) ≠ 0 ∧ 0x12 < (0x13 : Chr).toNat
      ∧ s.pool.telegram 1 = [0xF0, 0x13, 0x07] ++ [] ++ twoChars (crc16 ([0xF0, 0x13, 0x07] ++ [])) :=
  ⟨⟨canonical (by decide +kernel), ⟨by decide +kernel, fun h => by cases h⟩⟩, by decide +kernel⟩

set_option maxRecDepth 20000 in
theorem witness_RequestIsDispatched_length :
    let ps : List Chr := List.replicate 59 0x01
    let s := handed (signed ([0xF0, 0x02, 0x07] ++ ps))
    (CellsCanonical s ∧ Ready s ⟨0x07, 0x02⟩)
      ∧ s.agent.requests = 1 :: [] ∧ (1 : DescNo) ≠ 0 ∧ ps.length ≤ 59 ∧ ps.length ≠ 1
      ∧ s.pool.telegram 1 = [0xF0, 0x02, 0x07] ++ ps ++ twoChars (crc16 ([0xF0, 0x02, 0x07] ++ ps)) :=
  ⟨⟨canonical (by decide +kernel), ⟨by decide +kernel, fun h => by cases h⟩⟩, by decide +kernel⟩

/-- A PORT_CONTROL with an action past the last, and one with a port past the last. -/
theorem witness_RequestIsDispatched_control :
    (let s := handed (signed ([0xF0, 0x05, 0x07] ++ [0x01, 0x04]))
     (CellsCanonical s ∧ Ready s ⟨0x07, 0x05⟩) ∧ s.agent.requests = 1 :: [] ∧ 3 < (0x04 : Chr).toNat
       ∧ s.pool.telegram 1 = [0xF0, 0x05, 0x07] ++ [0x01, 0x04] ++ twoChars (crc16 ([0xF0, 0x05, 0x07] ++ [0x01, 0x04])))
    ∧ (let s := handed (signed ([0xF0, 0x05, 0x07] ++ [0x05, 0x03]))
       (CellsCanonical s ∧ Ready s ⟨0x07, 0x05⟩) ∧ s.agent.requests = 1 :: [] ∧ 4 < (0x05 : Chr).toNat
         ∧ s.pool.telegram 1 =
             [0xF0, 0x05, 0x07] ++ [0x05, 0x03] ++ twoChars (crc16 ([0xF0, 0x05, 0x07] ++ [0x05, 0x03]))) :=
  ⟨⟨⟨canonical (by decide +kernel), ⟨by decide +kernel, fun h => by cases h⟩⟩, by decide +kernel⟩,
    ⟨⟨canonical (by decide +kernel), ⟨by decide +kernel, fun h => by cases h⟩⟩, by decide +kernel⟩⟩

theorem witness_BadRequestIsRejected :
    ((handed (List.replicate 4 0x01)).agent.requests = 1 :: []
      ∧ ((handed (List.replicate 4 0x01)).pool.telegram 1).length < 5)
    ∧ ((handed (List.replicate 65 0x01)).agent.requests = 1 :: []
      ∧ 64 < ((handed (List.replicate 65 0x01)).pool.telegram 1).length)
    ∧ ((handed [0xF0, 0x01, 0x01, 0x00, 0x00]).agent.requests = 1 :: []
      ∧ ((handed [0xF0, 0x01, 0x01, 0x00, 0x00]).pool.telegram 1).drop 3 ≠
          twoChars (crc16 (((handed [0xF0, 0x01, 0x01, 0x00, 0x00]).pool.telegram 1).take 3))
      ∧ ((handed [0xF0, 0x01, 0x01, 0x00, 0x00]).pool.descriptor 1).refs = 1) := by decide +kernel

theorem witness_StatusReply : CellsCanonical State.reset ∧ Ready State.reset ⟨5, 0x01⟩ := reset_ready _

theorem witness_ForwardingAndRestartReplies :
    (CellsCanonical State.reset ∧ Ready State.reset ⟨5, 0x02⟩) ∧ (CellsCanonical State.reset ∧ Ready State.reset ⟨5, 0x12⟩)
      ∧ 1 < (0x02 : Chr).toNat := ⟨reset_ready _, reset_ready _, by decide⟩

theorem reset_records : RecordsInRange State.reset :=
  ⟨every_port (by decide +kernel), fun f h => (by cases h), fun d h => (by cases h), by decide +kernel⟩

theorem witness_PortReadAndCountersClearReplies :
    (CellsCanonical State.reset ∧ Ready State.reset ⟨5, 0x03⟩) ∧ RecordsInRange State.reset
      ∧ (CellsCanonical State.reset ∧ Ready State.reset ⟨5, 0x06⟩)
      ∧ (0x04 : Chr).toNat = Port.b4.number ∧ 4 < (0x05 : Chr).toNat ∧ (0x05 : Chr) ≠ 0xFF :=
  ⟨reset_ready _, reset_records, reset_ready _, by decide⟩

theorem witness_PortFormatReply :
    (CellsCanonical State.reset ∧ Ready State.reset ⟨5, 0x04⟩) ∧ (defaultFormat [417, 417, 416]).inRanges = true
      ∧ (State.reset.port .b1).admin = .disabled ∧ (defaultFormat [417, 417, 416]).width = .eight
      ∧ (defaultFormat [417, 417, 416]).miss ≠ .passToTrunk
      ∧ ({ defaultFormat [8] with miss := .passToTrunk } : FormatRecord).inRanges = true :=
  ⟨reset_ready _, by decide +kernel⟩

theorem witness_PortFormatReply_state :
    (CellsCanonical idle1 ∧ Ready idle1 ⟨5, 0x04⟩) ∧ (idle1.port .b1).admin ≠ .disabled :=
  ⟨⟨canonical (by decide +kernel), ⟨by decide +kernel, fun h => by cases h⟩⟩, by decide +kernel⟩

/-- A guard of 1 below an end gap of 2, and a port character above 04h. -/
theorem witness_PortFormatReply_range :
    let cs : List Chr := ({ defaultFormat [417] with endGap := 2, guardGap := 1 } : FormatRecord).chars
    cs.length = 13 + 2 * (cs.getD 12 0).toNat ∧ (cs.getD 5 0).toNat < (cs.getD 4 0).toNat
      ∧ 4 < (0x05 : Chr).toNat := by decide +kernel

/-- B1 FAULTED, its line at the given level. -/
def faulted (l : Level) : State := idle1.onPort .b1 fun x => { x with admin := .faulted, receiver := .off, rxPin := l }

theorem witness_EnableAndRecoverReplies_range :
    (CellsCanonical State.reset ∧ Ready State.reset ⟨5, 0x05⟩) ∧ 4 < (0x05 : Chr).toNat := ⟨reset_ready _, by decide⟩

theorem witness_EnableAndRecoverReplies (l : Level) :
    (CellsCanonical (faulted l) ∧ Ready (faulted l) ⟨5, 0x05⟩) ∧ ((faulted l).port .b1).admin = .faulted
      ∧ ((faulted l).port .b2).admin = .disabled ∧ ((faulted l).port .b1).rxPin = l := by
  cases l <;> exact ⟨⟨canonical (by decide +kernel), ⟨by decide +kernel, fun h => by cases h⟩⟩, by decide +kernel⟩

theorem witness_DisableTakesBranchDown_range :
    (CellsCanonical State.reset ∧ Ready State.reset ⟨5, 0x05⟩) ∧ 4 < (0x05 : Chr).toNat := ⟨reset_ready _, by decide⟩

theorem witness_DisableTakesBranchDown :
    let s := queued .reserved 0 0 none []
    (CellsCanonical s ∧ Ready s ⟨5, 0x05⟩) ∧ (s.port .b1).admin = .active
      ∧ (s.port .b1).counters.rxDiscarded ≤ 65535 ∧ (s.scheduler .b1).queue ≠ [] ∧ s.notices.records.length < 32
      ∧ (s.port .b2).admin = .disabled :=
  ⟨⟨canonical (by decide +kernel), ⟨by decide +kernel, fun h => by cases h⟩⟩, by decide +kernel⟩

/-- The records of `lostRecords`, with stand-in OFF. -/
theorem witness_DisableTakesBranchDown_records :
    let s := withRecords (lostRecords false) (queued .reserved 0 0 none [])
    (CellsCanonical s ∧ Ready s ⟨5, 0x05⟩) ∧ ExchangesSound s ∧ (∀ q, q ≠ .b1 → (s.scheduler q).phase ≠ .headHeld)
      ∧ s.trunk.pendingDepth = none
      ∧ ∀ r ∈ s.exchanges.records, r.target = .b1 → r.isOpen = true → r.standIn = false :=
  ⟨⟨canonical (by decide +kernel), ⟨by decide +kernel, fun h => by cases h⟩⟩, lost_records_sound _ _,
    fun q _ => (by cases q <;> intro h <;> cases h), rfl, by decide +kernel⟩

/-- The state of `losing`, ready for a DISABLE. -/
theorem witness_DisableTakesBranchDown_storage :
    (CellsCanonical losing ∧ Ready losing ⟨5, 0x05⟩) ∧ ExchangesSound losing
      ∧ LossStandIn .b1 losing (record1 .awaiting true) 2 9
      ∧ (losing.port .b1).admin = .active ∧ (losing.port .b1).counters.rxDiscarded ≤ 65535 :=
  ⟨⟨canonical (by decide +kernel), ⟨by decide +kernel, fun h => by cases h⟩⟩, losing_sound, losing_stand_in, by decide +kernel,
    by decide +kernel⟩

theorem witness_PurgeReply_range :
    (CellsCanonical State.reset ∧ Ready State.reset ⟨5, 0x05⟩) ∧ 4 < (0x05 : Chr).toNat := ⟨reset_ready _, by decide⟩

theorem witness_PurgeReply_onLine :
    let s := sending 0 0 0 [⟨1, 0x42, none⟩]
    (CellsCanonical s ∧ Ready s ⟨5, 0x05⟩) ∧ (s.scheduler .b1).phase = .onLine
      ∧ (∀ x ∈ [(⟨1, 0x42, none⟩ : QueueEntry)], x.desc ≠ 0) ∧ [⟨1, 0x42, none⟩] = (s.scheduler .b1).queue.tail :=
  ⟨⟨canonical (by decide +kernel), ⟨by decide +kernel, fun h => by cases h⟩⟩, by decide +kernel⟩

theorem witness_PurgeReply_waiting :
    let s := queued .headHeld 0 0 none []
    (CellsCanonical s ∧ Ready s ⟨5, 0x05⟩) ∧ (s.scheduler .b1).phase ≠ .backoff ∧ (s.scheduler .b1).phase ≠ .onLine
      ∧ (∀ x ∈ [(⟨1, 0x41, none⟩ : QueueEntry)], x.desc ≠ 0) ∧ [⟨1, 0x41, none⟩] = (s.scheduler .b1).queue :=
  ⟨⟨canonical (by decide +kernel), ⟨by decide +kernel, fun h => by cases h⟩⟩, by decide +kernel⟩

theorem witness_PurgeReply_plainBackoff :
    let s := queued .backoff 1 0 none [⟨1, 0x42, none⟩]
    (CellsCanonical s ∧ Ready s ⟨5, 0x05⟩) ∧ (s.scheduler .b1).phase = .backoff
      ∧ ∀ x ∈ (s.scheduler .b1).queue.head?, s.exchanges.sendingRecord .b1 x.desc = none :=
  ⟨⟨canonical (by decide +kernel), ⟨by decide +kernel, fun h => by cases h⟩⟩, by decide +kernel, fun _ _ => rfl⟩

/-- A head in BACKOFF with a record in SENDING, the trunk queue holding an entry. -/
def retrying (standIn : Bool) : State :=
  (withRecords [record1 .sending standIn] (queued .backoff 1 0 (some request1) [])).onPort .trunk fun x =>
    { x with scheduler := { x.scheduler with queue := [⟨2, 0x30, none⟩], phase := .reserved } }

theorem witness_PurgeReply_backoff (standIn : Bool) :
    let s := retrying standIn
    (CellsCanonical s ∧ Ready s ⟨5, 0x05⟩ ∧ ExchangesSound s) ∧ (s.scheduler .b1).phase = .backoff
      ∧ (s.scheduler .b1).queue = ⟨1, 0x41, some request1⟩ :: []
      ∧ s.exchanges.sendingRecord .b1 1 = some (record1 .sending standIn) ∧ s.trunk.pendingDepth = none
      ∧ ∀ q, (s.scheduler q).phase ≠ .headHeld :=
  ⟨⟨canonical (by cases standIn <;> decide +kernel), ⟨by cases standIn <;> decide +kernel, fun h => by cases h⟩,
      one_record_sound _ _⟩, rfl, rfl, rfl, rfl, fun q => (by cases q <;> intro h <;> cases h)⟩

theorem witness_PurgeReply_standIn :
    (record1 .sending true).origin ≠ .b1 ∧ (retrying true).agent.settings.inRanges = true
      ∧ StandInTaken { retrying true with pool := (retrying true).pool.dropRef 1 } (record1 .sending true) .unreachable
          1 8 :=
  ⟨by decide, by decide +kernel, ⟨by decide +kernel, by decide +kernel, by decide +kernel⟩⟩

theorem witness_PurgeReply_empty :
    (CellsCanonical State.reset ∧ Ready State.reset ⟨5, 0x05⟩) ∧ (State.reset.scheduler .b1).phase ≠ .onLine
      ∧ [] = (State.reset.scheduler .b1).queue := ⟨reset_ready _, by decide +kernel⟩

/-- `idle1` with routes is ready for any request. -/
theorem routes_ready (act shadow : List RouteEntry) (st : ShadowState) (id : RequestId) :
    CellsCanonical (withRoutes act shadow st idle1) ∧ Ready (withRoutes act shadow st idle1) id :=
  ⟨canonical (by decide +kernel : cellsWf idle1.pool.cells = true),
    ⟨(by decide +kernel : idle1.agentBusy = false), fun h => by cases h⟩⟩

theorem route1_sound : (route1 none false).sound idle1.mgmtAddress := ⟨by decide +kernel, rfl⟩

/-- A bank of 128 sound entries. -/
def full : List RouteEntry := (List.range 128).map fun k => { route1 none false with address := BitVec.ofNat 8 k }

theorem full_sound : BankSound idle1.mgmtAddress full :=
  ⟨by decide +kernel, by decide +kernel, fun e h => by
    obtain ⟨k, -, rfl⟩ := List.mem_map.mp h
    refine ⟨?_, rfl⟩
    simp [RouteEntry.legal, route1, RouteEntry.destinationList, Port.all, PerPort.get]⟩

theorem witness_RouteWriteReply :
    let s := withRoutes [] full.dropLast .edited idle1
    let x := { route1 none false with address := 0xFF }
    (CellsCanonical s ∧ Ready s ⟨5, 0x07⟩) ∧ BanksSound s ∧ s.routes.shadow = .edited
      ∧ parseRoute (routeRecord 0x01 0xFF 0x04 0x00 0x00 0 0 0) = some x ∧ x.legal s.mgmtAddress = true
      ∧ s.routes.shadowBank.length < 128 :=
  ⟨routes_ready _ _ _ _,
    banks_sound (by decide) (empty_bank_sound _)
      ⟨by decide +kernel, by decide +kernel, fun e h => full_sound.2.2 e (List.mem_of_mem_dropLast h)⟩,
    rfl, by decide +kernel⟩

theorem witness_RouteWriteReply_replaces :
    let s := withRoutes [] full .clean idle1
    (CellsCanonical s ∧ Ready s ⟨5, 0x07⟩) ∧ BanksSound s ∧ s.routes.shadow = .clean
      ∧ parseRoute (routeRecord 0x01 0x41 0x04 0x00 0x00 0 0 0) = some (route1 none false)
      ∧ (route1 none false).legal s.mgmtAddress = true
      ∧ ∃ y ∈ s.routes.shadowBank, y.rank = (route1 none false).rank :=
  ⟨routes_ready _ _ _ _, banks_sound (by decide) (empty_bank_sound _) full_sound, rfl, by decide +kernel,
    by decide +kernel, by decide +kernel⟩

theorem witness_RouteWriteReply_refused (st : ShadowState) :
    let s := withRoutes [] full st idle1
    let x := { route1 none false with address := 0xFF }
    (CellsCanonical s ∧ Ready s ⟨5, 0x07⟩) ∧ s.routes.shadow = st
      ∧ parseRoute (routeRecord 0x01 0xFF 0x04 0x00 0x00 0 0 0) = some x ∧ x.legal s.mgmtAddress = true
      ∧ findEntry s.routes.shadowBank x.arrival x.address = none ∧ 128 ≤ s.routes.shadowBank.length
      ∧ 4 < (0x05 : Chr).toNat ∧ (4000 : Nat) < (0x0FA1 : Word16).toNat :=
  ⟨routes_ready _ _ _ _, rfl, by cases st <;> decide +kernel⟩

theorem witness_RouteDeleteReply :
    let s := withRoutes [] [route1 none false] .clean idle1
    (CellsCanonical s ∧ Ready s ⟨5, 0x08⟩) ∧ BanksSound s
      ∧ s.routes.shadowBank = [] ++ route1 none false :: []
      ∧ (route1 none false).rank = (0x01 : Chr).toNat * 256 + (0x41 : Chr).toNat
      ∧ (∀ y ∈ s.routes.shadowBank, y.rank ≠ (0x04 : Chr).toNat * 256 + (0xFF : Chr).toNat)
      ∧ (0x04 : Chr).toNat ≤ 4 ∧ 4 < (0x05 : Chr).toNat :=
  ⟨routes_ready _ _ _ _, banks_sound (by decide) (empty_bank_sound _) (one_bank_sound route1_sound), rfl,
    by decide +kernel⟩

theorem witness_RouteReadsReply :
    let s := withRoutes full [route1 none false] .edited idle1
    CellsCanonical s ∧ Ready s ⟨5, 0x09⟩ ∧ Ready s ⟨5, 0x0A⟩ ∧ (0x01 : Chr).toNat = Port.b1.number
      ∧ s.routes.activeBank = full ∧ findEntry full .b1 0x7F = some { route1 none false with address := 0x7F }
      ∧ findEntry full .b1 0x80 = none
      ∧ s.routes.shadowBank = [route1 none false] ∧ s.routes.shadow ≠ .reseeding ∧ s.routes.shadow ≠ .stale :=
  ⟨(routes_ready _ _ _ ⟨5, 0x09⟩).1, (routes_ready _ _ _ _).2, (routes_ready _ _ _ _).2, by decide +kernel⟩

theorem witness_RouteReadsReply_refused (st : ShadowState) :
    let s := withRoutes full [] st idle1
    CellsCanonical s ∧ Ready s ⟨5, 0x09⟩ ∧ Ready s ⟨5, 0x0A⟩ ∧ s.routes.shadow = st
      ∧ 1 < (0x02 : Chr).toNat ∧ 4 < (0x05 : Chr).toNat ∧ (0x04 : Chr).toNat ≤ 4 :=
  ⟨(routes_ready _ _ _ ⟨5, 0x09⟩).1, (routes_ready _ _ _ _).2, (routes_ready _ _ _ _).2, rfl, by decide +kernel⟩

theorem witness_CommitAndDiscardStart (st : ShadowState) :
    let s := withRoutes [route1 none false] [route1 none false] st idle1
    let u := withRoutes [] [] st idle1
    (CellsCanonical s ∧ Ready s ⟨5, 0x0B⟩ ∧ Ready s ⟨5, 0x0C⟩ ∧ s.routes.shadow = st ∧ s.routes.shadowBank ≠ []
      ∧ s.routes.activeBank ≠ [])
    ∧ (CellsCanonical u ∧ Ready u ⟨5, 0x0B⟩ ∧ Ready u ⟨5, 0x0C⟩ ∧ u.routes.shadow = st ∧ u.routes.shadowBank = []
      ∧ u.routes.activeBank = []) := by
  refine ⟨⟨(routes_ready _ _ _ ⟨5, 0⟩).1, (routes_ready _ _ _ _).2, (routes_ready _ _ _ _).2, rfl, ?_, ?_⟩,
    ⟨(routes_ready _ _ _ ⟨5, 0⟩).1, (routes_ready _ _ _ _).2, (routes_ready _ _ _ _).2, rfl, rfl, rfl⟩⟩ <;>
    cases st <;> decide +kernel

theorem witness_RouteRearmReply_range :
    (CellsCanonical State.reset ∧ Ready State.reset ⟨5, 0x0D⟩) ∧ 4 < (0x05 : Chr).toNat := ⟨reset_ready _, by decide⟩

theorem witness_RouteRearmReply :
    let x := route1 (some ⟨0, 4, .retire⟩) true
    let s := withRoutes [x] [] .clean idle1
    (CellsCanonical s ∧ Ready s ⟨5, 0x0D⟩) ∧ BanksSound s ∧ (0x01 : Chr).toNat = Port.b1.number
      ∧ s.routes.activeBank = [] ++ x :: [] ∧ x.arrival = .b1 ∧ x.address = 0x41
      ∧ x.allowance = some ⟨0, 4, .retire⟩ ∧ findEntry s.routes.activeBank .b1 0x42 = none
      ∧ s.routes.shadow ≠ .validating ∧ s.routes.shadow ≠ .reseeding ∧ (route1 none false).allowance = none :=
  ⟨routes_ready _ _ _ _,
    banks_sound (by decide) (one_bank_sound ⟨by decide +kernel, by simp [route1]⟩) (empty_bank_sound _),
    by decide +kernel⟩

theorem witness_ListAndDrainReplies :
    ((CellsCanonical (withRecords [record1 .awaiting true] idle1)
        ∧ Ready (withRecords [record1 .awaiting true] idle1) ⟨5, 0x0E⟩)
      ∧ ExchangesSound (withRecords [record1 .awaiting true] idle1))
    ∧ (CellsCanonical (noted 32 State.reset) ∧ Ready (noted 32 State.reset) ⟨5, 0x0F⟩)
      ∧ (1 ≤ (0x18 : Chr).toNat ∧ (0x18 : Chr).toNat ≤ 24) ∧ 24 < (0x19 : Chr).toNat ∧ (0x00 : Chr).toNat = 0 :=
  ⟨⟨⟨canonical (by decide +kernel), ⟨by decide +kernel, fun h => by cases h⟩⟩, one_record_sound _ _⟩,
    ⟨canonical (by decide +kernel), ⟨by decide +kernel, fun h => by cases h⟩⟩, by decide⟩

/-- A record at the top of its ranges, one with a check code of 03h, and one with a divisor of 999. -/
theorem witness_SettingsWriteReply :
    let ok : List Chr := [8, 7, 2, 1, 2, 3, 4, 5, 6, 7, 8, 0xE0, 0xE1, 0xE2, 0x3E, 0x80, 0x03, 0xE8]
    let check : List Chr := ok.set 2 3
    let slow : List Chr := (ok.set 14 0x03).set 15 0xE7
    (CellsCanonical State.reset ∧ Ready State.reset ⟨5, 0x10⟩) ∧ ok.length = 18 ∧ check.length = 18 ∧ slow.length = 18
      ∧ ((ok.getD 0 0).toNat ≤ 8 ∧ (ok.getD 1 0).toNat + 1 ≤ (ok.getD 0 0).toNat ∧ ok.getD 2 0 = 0x02
        ∧ (ok.getD 14 0).toNat * 256 + (ok.getD 15 0).toNat = 16000
        ∧ (ok.getD 16 0).toNat * 256 + (ok.getD 17 0).toNat = 1000)
      ∧ 2 < (check.getD 2 0).toNat ∧ (slow.getD 14 0).toNat * 256 + (slow.getD 15 0).toNat < 1000 :=
  ⟨reset_ready _, by decide +kernel⟩

theorem witness_SettingsReadReply :
    (CellsCanonical State.reset ∧ Ready State.reset ⟨5, 0x11⟩) ∧ State.reset.agent.settings.inRanges = true
      ∧ State.reset.agent.settings.filler.length = 8 := ⟨reset_ready _, by decide +kernel⟩

theorem witness_RecordsRoundTrip (al : AllowanceMode) :
    (defaultFormat [8, 4095]).inRanges = true ∧ defaultSettings.inRanges = true ∧ defaultSettings.filler.length = 8
      ∧ (∀ r, ({ route1 (some ⟨65535, 1, al⟩) false with reply := some ⟨4000, true⟩ } : RouteEntry).reply = some r →
          1 ≤ r.window ∧ r.window ≤ 4000)
      ∧ (∀ a, (route1 (some ⟨65535, 1, al⟩) false).allowance = some a →
          1 ≤ a.count ∧ a.count ≤ 65535 ∧ 1 ≤ a.reload ∧ a.reload ≤ 65535) :=
  ⟨by decide +kernel, by decide +kernel, by decide,
    fun r h => by cases h; decide, fun a h => by cases h; simp⟩

theorem witness_TickKeepsTime :
    State.reset.exchanges.tickCount + 1 < State.reset.agent.settings.divisor
      ∧ (let s : State := { trunkSpace with exchanges := { trunkSpace.exchanges with tickCount := 3999 } }
         s.agent.settings.divisor ≤ s.exchanges.tickCount + 1 ∧ (s.port .trunk).rxPin = .space
           ∧ (s.port .trunk).spaceCount ≤ 65535)
      ∧ (idle1.port .b1).quiet = true ∧ (idle1.port .b1).charTail = 0 := by decide +kernel

/-- B1 at the sampling point of a start bit that reads mark, and of a first stop bit. -/
theorem witness_TickKeepsTime_received :
    let f := defaultFormat [417, 417, 416]
    let s (bit : Nat) : State := State.reset.onPort .b1 fun x => { x with charReceiver := .inCharacter f bit 208 [] }
    f.firstStop = 10 ∧ f.pattern[0 % f.pattern.length]? = some 417 ∧ f.pattern[10 % f.pattern.length]? = some 417
      ∧ 208 = 417 / 2 ∧ ((s 0).port .b1).charReceiver = .inCharacter f 0 208 [] ∧ ((s 0).port .b1).rxPin = .mark
      ∧ ((s 10).port .b1).charReceiver = .inCharacter f 10 208 []
      ∧ ∀ q, q.number < Port.b1.number → ((s 0).port q).charReceiver = .awaitMark ∧ ((s 10).port q).charReceiver = .awaitMark :=
  ⟨rfl, rfl, rfl, rfl, rfl, rfl, rfl, every_port (by decide +kernel)⟩

/-- The last tick of the last stop bit of B1's character 0, its echo compared good, the telegram of two characters. -/
theorem witness_TickKeepsTime_sent :
    let f := defaultFormat [417, 417, 416]
    let s := (sending 1 0 0 []).onPort .b1 fun x => { x with transmitter := .sending f 0 (f.levels 0x41 true) 10 416 false }
    let u : State := { s with pool := s.pool.setDescriptor 1 { s.pool.descriptor 1 with length := 2 } }
    (u.port .b1).transmitter = .sending f 0 (f.levels 0x41 true) 10 416 false ∧ 10 + 1 = (f.levels 0x41 true).length
      ∧ f.pattern[10 % f.pattern.length]? = some 417 ∧ 417 ≤ 416 + 1 ∧ (u.scheduler .b1).phase = .onLine
      ∧ (u.scheduler .b1).queue = ⟨1, 0x41, none⟩ :: [] ∧ (u.port .b1).receiver = .echo 1
      ∧ 0 + 1 < (u.pool.descriptor 1).length := by decide +kernel

theorem witness_TickKeepsTime_step :
    State.reset.pending = [] ∧ State.reset.due = none
      ∧ (raised .b1 0x41 none idle1).pending = []
      ∧ (raised .b1 0x41 none idle1).due = some (.telegramCompletion .b1) := by decide +kernel

/-- A state that is not the one after reset: B1 down with nothing left, B2 in service, a request waiting, records,
routes, notices and an entry in a queue. -/
def busy : State :=
  { noted 3 (withRecords (many 16 .awaiting) (two (withRoutes full [] .clean State.reset))) with
    pending := [.status 0x01, .lineRelease .trunk] }

theorem witness_StepKeepsBounds :
    (∃ t, step busy = .next t ∧ t.pending = [.lineRelease .trunk]) ∧ CellsCanonical busy ∧ NoticesBounded busy
      ∧ TrunkInService busy ∧ CountersBounded busy ∧ SpaceIsSeen busy :=
  ⟨⟨_, rfl, by decide +kernel⟩, canonical (by decide +kernel), (by decide : 3 ≤ 32),
    ⟨by decide +kernel, by decide +kernel, fun f h => by cases h⟩, every_port (by decide +kernel),
    every_port (by decide +kernel)⟩

theorem witness_StepKeepsRecordsInRange :
    (∃ t, step busy = .next t ∧ t.pending = [.lineRelease .trunk]) ∧ RecordsInRange busy :=
  ⟨⟨_, rfl, by decide +kernel⟩, every_port (by decide +kernel), fun f h => (by cases h),
    fun d h => (by cases h), by decide +kernel⟩

theorem witness_StepKeepsExchangesSound :
    (∃ t, step busy = .next t ∧ t.pending = [.lineRelease .trunk]) ∧ ExchangesSound busy :=
  ⟨⟨_, rfl, by decide +kernel⟩, by decide +kernel, by decide +kernel⟩

/-- Two open records toward the trunk, its overlap depth 2 and a depth of 1 that waits. -/
def lowering : State :=
  let r : ExchangeRecord := { record1 .awaiting false with target := .trunk, origin := .b1, request := none }
  let s := (withRecords [r, { r with line := 0x42, seq := 1 }] idle1).onPort .trunk fun x =>
    { x with format := { x.format with overlap := 2 } }
  { s with trunk := { s.trunk with pendingDepth := some 1 }, pending := [.deadlineExpiry .trunk 0x42] }

theorem witness_StepKeepsExchangesSound_overlap :
    (∃ t, step lowering = .next t ∧ t.trunk.pendingDepth = none) ∧ ExchangesSound lowering ∧ DownPortsSilent lowering
      ∧ OverlapBounded lowering :=
  ⟨⟨_, rfl, by decide +kernel⟩, ⟨by decide +kernel, by decide +kernel⟩, ⟨rfl, every_port (by decide +kernel)⟩,
    every_port (by decide +kernel), fun d h => (by cases h; decide +kernel)⟩

theorem witness_StepKeepsDownPortsSilent :
    (∃ t, step busy = .next t ∧ t.pending = [.lineRelease .trunk]) ∧ DownPortsSilent busy :=
  ⟨⟨_, rfl, by decide +kernel⟩, by decide +kernel, every_port (by decide +kernel)⟩

theorem witness_StepKeepsBanksSound :
    (∃ t, step busy = .next t ∧ t.pending = [.lineRelease .trunk]) ∧ BanksSound busy :=
  ⟨⟨_, rfl, by decide +kernel⟩, full_sound, empty_bank_sound _, fun h => by cases h⟩

theorem witness_StepKeepsQueuesSound :
    (∃ t, step busy = .next t ∧ t.pending = [.lineRelease .trunk]) ∧ QueuesSound busy :=
  ⟨⟨_, rfl, by decide +kernel⟩, fun p _ => by cases p <;> decide +kernel, by decide +kernel, by decide +kernel,
    by decide +kernel, by decide +kernel, every_port (by decide +kernel),
    fun p b => by cases p <;> cases b <;> decide +kernel, by decide +kernel⟩

/-- A pool with nothing taken is in order. -/
theorem witness_StepKeepsQueuesSound_pool :
    (∃ t, step busy = .next t ∧ t.pending = [.lineRelease .trunk]) ∧ DownPortsSilent busy ∧ PoolSound busy := by
  have free : ∀ d : DescNo, d ≠ 0 → busy.pool.descriptor d = freeDescriptor ∧ busy.naming d = 0 ∧ busy.holders d = 0 := by
    decide +kernel
  refine ⟨witness_StepKeepsQueuesSound.1, witness_StepKeepsDownPortsSilent.2, by decide +kernel, by decide +kernel,
    by decide +kernel, fun d h => ?_⟩
  obtain ⟨a, b, c⟩ := free d h
  simp [a, b, c, freeDescriptor]

end Sys2Proof.Tests
end

section
/-! PROOFS. The route table's edits by command: ROUTE_DELETE (R7) and ROUTE_REARM (R23). Each command's own operation is
said once, an equation for each of its answers; `Replied.of_result` turns such an equation into the reply. -/

namespace Sys2Proof.Machine

/-! ### The port a parameter names (Table 10-6) -/

theorem Port.ofChr_number {v : Chr} {p : Port} (h : v.toNat = p.number) : Port.ofChr v = some p := by
  unfold Port.ofChr
  rw [h]
  cases p <;> rfl

/-- A character above 04h names no port. -/
theorem Port.ofChr_above {v : Chr} (h : 4 < v.toNat) : Port.ofChr v = none := by
  unfold Port.ofChr
  split
  case h_6 => rfl
  all_goals omega

theorem Port.exists_number {n : Nat} (h : n ≤ 4) : ∃ p : Port, n = p.number := by
  interval_cases n
  exacts [⟨.trunk, rfl⟩, ⟨.b1, rfl⟩, ⟨.b2, rfl⟩, ⟨.b3, rfl⟩, ⟨.b4, rfl⟩]

/-! ### The shadow state's refusals (R6, R7, R9, R23) -/

theorem RouteUnit.editRefusal_busy {r : RouteUnit} (h : r.shadow = .validating ∨ r.shadow = .reseeding) :
    r.editRefusal = some .busy := by
  unfold RouteUnit.editRefusal
  rcases h with h | h <;> rw [h]

theorem RouteUnit.editRefusal_stale {r : RouteUnit} (h : r.shadow = .stale) : r.editRefusal = some .state := by
  unfold RouteUnit.editRefusal
  rw [h]

theorem RouteUnit.editRefusal_open {r : RouteUnit} (h : r.shadow = .clean ∨ r.shadow = .edited) : r.editRefusal = none := by
  unfold RouteUnit.editRefusal
  rcases h with h | h <;> rw [h]

theorem RouteUnit.busy_iff (r : RouteUnit) : r.busy = true ↔ r.shadow = .validating ∨ r.shadow = .reseeding :=
  decide_eq_true_iff

/-! ### Banks -/

theorem findEntry_isNone {es : List RouteEntry} {p : Port} {a : Chr} (h : ∀ y ∈ es, y.rank ≠ keyRank p a) :
    findEntry es p a = none :=
  List.find?_eq_none.mpr fun y hy k => h y hy ((RouteEntry.rank_eq_iff y p a).mpr (of_decide_eq_true k))

/-- Either bank, so the active one and the shadow, is in key order (R1, R4). -/
theorem BanksSound.bank_ordered {s : State} (h : BanksSound s) (b : BankId) : KeyOrdered (s.routes.bank b) := by
  obtain ⟨⟨_, first, _⟩, ⟨_, second, _⟩, _⟩ := h
  cases b
  · exact first
  · exact second

/-- Rearming an entry with an allowance reloads its count and makes it LIVE (R23). -/
theorem RouteEntry.rearm_some {x : RouteEntry} {al : Allowance} (h : x.allowance = some al) :
    x.rearm = { x with allowance := some { al with count := al.reload }, retired := false } := by
  rw [RouteEntry.rearm, h, Option.map_some]

/-! ### From a command's result to its reply -/

/-- The reply to a command whose operation, on the state with the command executing, leaves `u` and answers `a`. -/
theorem Replied.of_result {u : State} {id : RequestId} {a : Answer} {x : Option RequestId} {r : State × Answer}
    (hr : r = ({ u with agent := { u.agent with executing := x } }, a)) (w : CellsCanonical u)
    (h : a.data.length ≤ 249) : Replied u (r.1.buildReply id r.2) id a := by
  subst hr
  exact buildReply_executing w h

/-! ### ROUTE_DELETE (R7) -/

section
variable {s : State} {v a : Chr}

/-- BUSY and STATE come before the port is looked at. -/
theorem doRouteDelete_refused {why : Result} (h : s.routes.editRefusal = some why) :
    s.doRouteDelete v a = (s, Answer.refuse why) := by
  rw [State.doRouteDelete, h]

theorem doRouteDelete_range (h : s.routes.editRefusal = none) (hv : 4 < v.toNat) :
    s.doRouteDelete v a = (s, Answer.refuse .range) := by
  rw [State.doRouteDelete, h, Port.ofChr_above hv]

theorem doRouteDelete_absent {p : Port} (h : s.routes.editRefusal = none) (hv : v.toNat = p.number)
    (hf : ∀ y ∈ s.routes.shadowBank, y.rank ≠ keyRank p a) : s.doRouteDelete v a = (s, Answer.refuse .absent) := by
  rw [State.doRouteDelete, h, Port.ofChr_number hv]
  simp [findEntry_isNone hf]

/-- The entry of the key goes and the entries before and after it stay, in their order. -/
theorem doRouteDelete_found {p : Port} {pre post : List RouteEntry} {x : RouteEntry} (h : s.routes.editRefusal = none)
    (hv : v.toNat = p.number) (ho : KeyOrdered s.routes.shadowBank) (hb : s.routes.shadowBank = pre ++ x :: post)
    (hx : x.rank = keyRank p a) :
    s.doRouteDelete v a = ({ s with routes := { s.routes.setShadow (pre ++ post) with shadow := .edited } },
      ⟨.ok, [BitVec.ofNat 8 (pre.length + post.length)]⟩) := by
  obtain ⟨rfl, rfl⟩ := (RouteEntry.rank_eq_iff x p a).mp hx
  rw [hb] at ho
  rw [State.doRouteDelete, h, Port.ofChr_number hv]
  simp [hb, findEntry_split ho, removeEntry_split ho, RouteUnit.edited, Answer.okWith, natChr]

end

theorem execute_routeDelete (s : State) (id : RequestId) (v a : Chr) :
    s.execute .routeDelete id [v, a] =
      let r := ({ s with agent := { s.agent with executing := some id } } : State).doRouteDelete v a
      r.1.buildReply id r.2 := rfl

theorem exec_routeDelete {s : State} {seq v a : Chr} (h : Ready s ⟨seq, 0x08⟩) :
    exec (.routeDelete seq v a) s =
      let r := ({ s with agent := { s.agent with executing := some ⟨seq, 0x08⟩ } } : State).doRouteDelete v a
      .next (r.1.buildReply ⟨seq, 0x08⟩ r.2) :=
  (exec_ready (k := .routeDelete) rfl h rfl rfl).trans (congrArg _ (execute_routeDelete s _ v a))

/-- Settles O44: the bank is in key order, so the entry of the key, where there is one, is the only one. -/
theorem routeDeleteReply : Obligations.RouteDeleteReply := by
  intro seq v a s w ready sound
  refine ⟨_, exec_routeDelete ready, fun busy => ?_, fun stale => ?_, fun editable => ⟨fun above => ?_, ?_, ?_⟩⟩
  · exact .of_result (doRouteDelete_refused (RouteUnit.editRefusal_busy busy)) w (Nat.zero_le _)
  · exact .of_result (doRouteDelete_refused (RouteUnit.editRefusal_stale stale)) w (Nat.zero_le _)
  · exact .of_result (doRouteDelete_range (RouteUnit.editRefusal_open editable) above) w (Nat.zero_le _)
  · intro hv missing
    obtain ⟨p, hp⟩ := Port.exists_number hv
    rw [hp] at missing
    exact .of_result (doRouteDelete_absent (RouteUnit.editRefusal_open editable) hp missing) w (Nat.zero_le _)
  · intro pre x post hv bank key
    obtain ⟨p, hp⟩ := Port.exists_number hv
    rw [hp] at key
    exact .of_result
      (doRouteDelete_found (RouteUnit.editRefusal_open editable) hp (sound.bank_ordered _) bank key) w (by simp)

/-! ### ROUTE_REARM (R23) -/

section
variable {s : State} {v a : Chr}

/-- RANGE comes before the shadow state is looked at (section 10.3). -/
theorem doRouteRearm_range (hv : 4 < v.toNat) : s.doRouteRearm v a = (s, Answer.refuse .range) := by
  rw [State.doRouteRearm, Port.ofChr_above hv]

theorem doRouteRearm_busy {p : Port} (hv : v.toNat = p.number) (h : s.routes.busy = true) :
    s.doRouteRearm v a = (s, Answer.refuse .busy) := by
  rw [State.doRouteRearm, Port.ofChr_number hv]
  exact if_pos h

theorem doRouteRearm_absent {p : Port} (hv : v.toNat = p.number) (h : ¬ s.routes.busy = true)
    (hf : findEntry s.routes.activeBank p a = none) : s.doRouteRearm v a = (s, Answer.refuse .absent) := by
  rw [State.doRouteRearm, Port.ofChr_number hv]
  simp [h, hf]

theorem doRouteRearm_state {p : Port} {x : RouteEntry} (hv : v.toNat = p.number) (h : ¬ s.routes.busy = true)
    (hf : findEntry s.routes.activeBank p a = some x) (hx : x.allowance = none) :
    s.doRouteRearm v a = (s, Answer.refuse .state) := by
  rw [State.doRouteRearm, Port.ofChr_number hv]
  simp [h, hf, hx]

theorem doRouteRearm_found {p : Port} {x : RouteEntry} {al : Allowance} (hv : v.toNat = p.number)
    (h : ¬ s.routes.busy = true) (hf : findEntry s.routes.activeBank p a = some x) (hx : x.allowance = some al) :
    s.doRouteRearm v a =
      ({ s with routes := s.routes.setActive (changeEntry s.routes.activeBank p a RouteEntry.rearm) }, ⟨.ok, []⟩) := by
  rw [State.doRouteRearm, Port.ofChr_number hv]
  simp [h, hf, hx, Answer.okWith]

end

theorem execute_routeRearm (s : State) (id : RequestId) (v a : Chr) :
    s.execute .routeRearm id [v, a] =
      let r := ({ s with agent := { s.agent with executing := some id } } : State).doRouteRearm v a
      r.1.buildReply id r.2 := rfl

theorem exec_routeRearm {s : State} {seq v a : Chr} (h : Ready s ⟨seq, 0x0D⟩) :
    exec (.routeRearm seq v a) s =
      let r := ({ s with agent := { s.agent with executing := some ⟨seq, 0x0D⟩ } } : State).doRouteRearm v a
      .next (r.1.buildReply ⟨seq, 0x0D⟩ r.2) :=
  (exec_ready (k := .routeRearm) rfl h rfl rfl).trans (congrArg _ (execute_routeRearm s _ v a))

/-- Settles O47: in a bank in key order the entry found is the one the bank is split at, and no other is changed. -/
theorem routeRearmReply : Obligations.RouteRearmReply := by
  refine ⟨fun seq v a s w ready above => ?_, fun seq v a p s w ready sound hp => ?_⟩
  · exact ⟨_, exec_routeRearm ready, .of_result (doRouteRearm_range above) w (Nat.zero_le _)⟩
  · refine ⟨_, exec_routeRearm ready, fun busy => ?_, fun notValidating notReseeding => ?_⟩
    · exact .of_result (doRouteRearm_busy hp ((RouteUnit.busy_iff _).mpr busy)) w (Nat.zero_le _)
    · have idle : ¬ s.routes.busy = true := fun k => ((RouteUnit.busy_iff _).mp k).elim notValidating notReseeding
      refine ⟨fun missing => .of_result (doRouteRearm_absent hp idle missing) w (Nat.zero_le _), ?_⟩
      rintro pre x post bank rfl rfl
      have ordered : KeyOrdered (pre ++ x :: post) := bank ▸ sound.bank_ordered _
      have found : findEntry s.routes.activeBank x.arrival x.address = some x := by rw [bank, findEntry_split ordered]
      refine ⟨fun without => .of_result (doRouteRearm_state hp idle found without) w (Nat.zero_le _), fun al reload => ?_⟩
      have changed := changeEntry_split ordered RouteEntry.rearm
      rw [← bank, RouteEntry.rearm_some reload] at changed
      rw [← changed]
      exact .of_result (doRouteRearm_found hp idle found reload) w (Nat.zero_le _)

end Sys2Proof.Machine
end

section
/-! PROOFS. A port's record by command: PORT_READ (R163, Table 10-12) and COUNTERS_CLEAR (R162). The layout of a PORT_READ
reply is brought to two-character numbers spelled out, and its length, which a pattern of at most 12 entries bounds, is
what lets the reply fit descriptor 0. -/

namespace Sys2Proof.Machine

/-! ### Two-character numbers (R192) -/

/-- The high character first, for a number of any size: both sides drop what is above 16 bits. -/
theorem natTwo_eq (n : Nat) : natTwo n = [BitVec.ofNat 8 (n / 256), BitVec.ofNat 8 (n % 256)] := by
  have high : hiChr (BitVec.ofNat 16 n) = BitVec.ofNat 8 (n / 256) := by
    apply BitVec.eq_of_toNat_eq
    simp only [hiChr, BitVec.extractLsb'_toNat, BitVec.toNat_ofNat, Nat.shiftRight_eq_div_pow]
    omega
  have low : loChr (BitVec.ofNat 16 n) = BitVec.ofNat 8 (n % 256) := by
    apply BitVec.eq_of_toNat_eq
    simp only [loChr, BitVec.extractLsb'_toNat, BitVec.toNat_ofNat, Nat.shiftRight_zero]
    omega
  rw [natTwo, twoChars, high, low]

@[simp] theorem natTwo_length (n : Nat) : (natTwo n).length = 2 := rfl

theorem flatMap_natTwo (ns : List Nat) :
    ns.flatMap natTwo = ns.flatMap fun n => [BitVec.ofNat 8 (n / 256), BitVec.ofNat 8 (n % 256)] :=
  congrArg (fun two => ns.flatMap two) (funext natTwo_eq)

/-! ### The length of a port's record (Tables 10-10 and 10-12) -/

theorem FormatRecord.chars_length (f : FormatRecord) : f.chars.length = 13 + 2 * f.pattern.length := by
  simp [FormatRecord.chars]; omega

theorem portReadData_length (p : Port) (x : PortState) :
    (portReadData p x).length = 30 + 2 * x.format.pattern.length := by
  simp [portReadData, FormatRecord.chars_length]; omega

theorem FormatRecord.pattern_length_le {f : FormatRecord} (h : f.inRanges = true) : f.pattern.length ≤ 12 := by
  simp only [FormatRecord.inRanges, inRange, Bool.and_eq_true, decide_eq_true_eq] at h
  omega

/-- The data of a PORT_READ fits a reply where the port's format is in range. -/
theorem portReadData_fits {p : Port} {x : PortState} (h : x.format.inRanges = true) :
    (portReadData p x).length ≤ 249 := by
  have short := FormatRecord.pattern_length_le h
  rw [portReadData_length]
  omega

theorem Port.toChr_of_number {v : Chr} {p : Port} (h : v.toNat = p.number) : p.toChr = v := by
  rw [Port.toChr, ← h, BitVec.ofNat_toNat, BitVec.setWidth_eq]

/-! ### PORT_READ (R163) -/

section
variable {s : State} {v : Chr}

theorem doPortRead_port {p : Port} (hv : v.toNat = p.number) :
    s.doPortRead v = (s, Answer.okWith (portReadData p (s.port p))) := by
  rw [State.doPortRead, Port.ofChr_number hv]

theorem doPortRead_range (hv : 4 < v.toNat) : s.doPortRead v = (s, Answer.refuse .range) := by
  rw [State.doPortRead, Port.ofChr_above hv]

end

theorem execute_portRead (s : State) (id : RequestId) (v : Chr) :
    s.execute .portRead id [v] =
      let r := ({ s with agent := { s.agent with executing := some id } } : State).doPortRead v
      r.1.buildReply id r.2 := rfl

theorem exec_portRead {s : State} {seq v : Chr} (h : Ready s ⟨seq, 0x03⟩) :
    exec (.portRead seq v) s =
      let r := ({ s with agent := { s.agent with executing := some ⟨seq, 0x03⟩ } } : State).doPortRead v
      .next (r.1.buildReply ⟨seq, 0x03⟩ r.2) :=
  (exec_ready (k := .portRead) rfl h rfl rfl).trans (congrArg _ (execute_portRead s _ v))

/-! ### COUNTERS_CLEAR (R162) -/

section
variable {s : State} {v : Chr}

theorem doCountersClear_port {p : Port} (hv : v.toNat = p.number) :
    s.doCountersClear v = (s.setPort p { s.port p with counters := zeroCounters }, ⟨.ok, []⟩) := by
  have single : v ≠ 0xFF := by
    rintro rfl
    cases p <;> cases hv
  rw [State.doCountersClear, if_neg single, Port.ofChr_number hv]
  rfl

theorem doCountersClear_all :
    s.doCountersClear 0xFF =
      ({ s with ports := s.ports.map fun x => { x with counters := zeroCounters } }, ⟨.ok, []⟩) := rfl

theorem doCountersClear_range (hv : 4 < v.toNat) (single : v ≠ 0xFF) :
    s.doCountersClear v = (s, Answer.refuse .range) := by
  rw [State.doCountersClear, if_neg single, Port.ofChr_above hv]

end

theorem execute_countersClear (s : State) (id : RequestId) (v : Chr) :
    s.execute .countersClear id [v] =
      let r := ({ s with agent := { s.agent with executing := some id } } : State).doCountersClear v
      r.1.buildReply id r.2 := rfl

theorem exec_countersClear {s : State} {seq v : Chr} (h : Ready s ⟨seq, 0x06⟩) :
    exec (.countersClear seq v) s =
      let r := ({ s with agent := { s.agent with executing := some ⟨seq, 0x06⟩ } } : State).doCountersClear v
      .next (r.1.buildReply ⟨seq, 0x06⟩ r.2) :=
  (exec_ready (k := .countersClear) rfl h rfl rfl).trans (congrArg _ (execute_countersClear s _ v))

/-- Settles O38: the characters of Table 10-12, two for each number, are the model's record of the port; a port's
counters are cleared before the reply is built, whose own frame keeps the rest. -/
theorem portReadAndCountersClearReplies : Obligations.PortReadAndCountersClearReplies := by
  refine ⟨fun seq v s w ready ⟨formats, _⟩ => ?_, fun seq v s w ready => ?_⟩
  · refine ⟨_, exec_portRead ready, ?_, fun above => .of_result (doPortRead_range above) w (Nat.zero_le _)⟩
    rintro p x f data hv rfl rfl layout
    have record : data = portReadData p (s.port p) := by
      rw [layout, portReadData, FormatRecord.chars, Port.toChr_of_number hv]
      simp only [flatMap_natTwo, natTwo_eq, natChr, List.flatMap_cons, List.flatMap_nil, List.append_assoc, List.cons_append,
        List.nil_append]
      rfl
    subst record
    exact ⟨.of_result (doPortRead_port hv) w (portReadData_fits (formats p)), portReadData_length p _⟩
  · refine ⟨_, exec_countersClear ready, fun p hv => ?_, ?_, fun above single => ?_⟩
    · exact .of_result (doCountersClear_port hv) w (Nat.zero_le _)
    · rintro rfl
      exact ⟨{ s with ports := s.ports.map fun x => { x with counters := zeroCounters } },
        .of_result doCountersClear_all w (Nat.zero_le _), rfl, fun p => PerPort.get_map _ _ p⟩
    · exact .of_result (doCountersClear_range above single) w (Nat.zero_le _)

end Sys2Proof.Machine
end

section
/-! PROOFS. The notice queue's posts (R166): what a post does to the stamp and to the records, at any number of records. -/

namespace Sys2Proof.Machine

theorem exec_noticePost (k : NoticeKind) (port : Option Port) (a : Option Chr) (d : Option Word16) (s : State) :
    exec (.noticePost k port a d) s = .next (s.post k port a d) := rfl

section
variable {q : NoticeQueue} (k : NoticeKind) (port : Option Port) (a : Option Chr) (d : Option Word16)

theorem NoticeQueue.post_records_room (h : q.records.length < 32) :
    (q.post k port a d).records = q.records ++ [⟨q.nextStamp, k, port, a, d⟩] := if_pos h

theorem NoticeQueue.post_records_full (h : 32 ≤ q.records.length) : (q.post k port a d).records = q.records :=
  if_neg h.not_gt

theorem NoticeQueue.post_nextStamp_toNat :
    (q.post k port a d).nextStamp.toNat = (q.nextStamp.toNat + 1) % 65536 := by
  rw [NoticeQueue.post_nextStamp, BitVec.toNat_add]
  rfl

end

/-- Settles O31: a post is a change of the Notice Queue alone, by the number of records it holds. -/
theorem postStampsAndStores : Obligations.PostStampsAndStores := by
  intro k port a d s
  exact ⟨_, exec_noticePost k port a d s, rfl, NoticeQueue.post_nextStamp_toNat k port a d,
    NoticeQueue.post_records_room k port a d, NoticeQueue.post_records_full k port a d⟩

end Sys2Proof.Machine
end

section
/-! PROOFS. The commands that list a whole table: EXCHANGE_LIST (R73, Table 10-13) and NOTICE_READ (R168, Table 10-14).
Insertion by age keeps every record and the falling order of ages; each record's characters are brought to the tables'
layout; and a table's size, which bounds the data, is what lets the reply fit descriptor 0. -/

namespace Sys2Proof.Machine

/-! ### The order of ages (R50) -/

/-- No record of the list is younger than one after it. -/
abbrev ExchangeMonitor.FallingAge (m : ExchangeMonitor) (rs : List ExchangeRecord) : Prop :=
  rs.Pairwise fun x y => m.age y ≤ m.age x

section
variable (m : ExchangeMonitor)

theorem insertByAge_perm (r : ExchangeRecord) (rs : List ExchangeRecord) : (insertByAge m r rs).Perm (r :: rs) := by
  induction rs with
  | nil => exact .refl _
  | cons x rest ih =>
    rw [insertByAge]
    split
    · exact .refl _
    · exact (ih.cons x).trans (.swap r x rest)

/-- The record goes before the first younger one, so all before it are at least as old. -/
theorem insertByAge_fallingAge (r : ExchangeRecord) {rs : List ExchangeRecord} (h : m.FallingAge rs) :
    m.FallingAge (insertByAge m r rs) := by
  induction rs with
  | nil => exact List.pairwise_singleton _ _
  | cons x rest ih =>
    obtain ⟨younger, falling⟩ := List.pairwise_cons.mp h
    rw [insertByAge]
    split
    next older =>
      refine List.pairwise_cons.mpr ⟨fun y hy => ?_, h⟩
      rcases List.mem_cons.mp hy with rfl | hy
      · exact older.le
      · exact (younger y hy).trans older.le
    next notOlder =>
      refine List.pairwise_cons.mpr ⟨fun y hy => ?_, ih falling⟩
      rcases List.mem_cons.mp ((insertByAge_perm m r rest).mem_iff.mp hy) with rfl | hy
      · exact Nat.le_of_not_lt notOlder
      · exact younger y hy

theorem foldl_insertByAge_perm (rs acc : List ExchangeRecord) :
    (rs.foldl (fun acc r => insertByAge m r acc) acc).Perm (rs ++ acc) := by
  induction rs generalizing acc with
  | nil => exact .refl _
  | cons r rest ih => exact (ih _).trans (((insertByAge_perm m r acc).append_left rest).trans List.perm_middle)

theorem foldl_insertByAge_fallingAge (rs : List ExchangeRecord) {acc : List ExchangeRecord} (h : m.FallingAge acc) :
    m.FallingAge (rs.foldl (fun acc r => insertByAge m r acc) acc) := by
  induction rs generalizing acc with
  | nil => exact h
  | cons r rest ih => exact ih (insertByAge_fallingAge m r h)

theorem ExchangeMonitor.oldestFirst_perm (rs : List ExchangeRecord) : (m.oldestFirst rs).Perm rs := by
  simpa [ExchangeMonitor.oldestFirst] using foldl_insertByAge_perm m rs []

theorem ExchangeMonitor.oldestFirst_fallingAge (rs : List ExchangeRecord) : m.FallingAge (m.oldestFirst rs) :=
  foldl_insertByAge_fallingAge m rs .nil

end

/-! ### The characters of the records (Tables 10-13 and 10-14) -/

/-- In SENDING the time remaining is reported as 0 (Table 10-13). -/
theorem ExchangeRecord.chars_sending {r : ExchangeRecord} (h : r.state = .sending) :
    r.chars = [BitVec.ofNat 8 r.target.number, r.line, BitVec.ofNat 8 r.origin.number, r.originAddress,
      BitVec.ofNat 8 (r.window / 256), BitVec.ofNat 8 (r.window % 256),
      BitVec.ofNat 8 (0 + (if r.standIn then 4 else 0) + (if r.lateHold then 8 else 0)), 0, 0,
      (r.request.map fun d => BitVec.ofNat 8 d.val).getD 0xFF, r.seq.extractLsb' 8 8, r.seq.extractLsb' 0 8] := by
  cases d : r.request <;>
    simp [ExchangeRecord.chars, h, d, natTwo_eq, natChr, Port.toChr, ExchangeState.code, Bool.toNat, Bool.cond_eq_ite,
      twoChars, hiChr, loChr]

/-- Out of SENDING the time remaining is the record's, and no request descriptor is reported (Table 10-13). -/
theorem ExchangeRecord.chars_not_sending {r : ExchangeRecord} (h : r.state ≠ .sending) :
    r.chars = [BitVec.ofNat 8 r.target.number, r.line, BitVec.ofNat 8 r.origin.number, r.originAddress,
      BitVec.ofNat 8 (r.window / 256), BitVec.ofNat 8 (r.window % 256),
      BitVec.ofNat 8 (r.state.code + (if r.standIn then 4 else 0) + (if r.lateHold then 8 else 0)),
      BitVec.ofNat 8 (r.remaining / 256), BitVec.ofNat 8 (r.remaining % 256), 0xFF,
      r.seq.extractLsb' 8 8, r.seq.extractLsb' 0 8] := by
  cases k : r.state
  case sending => exact absurd k h
  all_goals
    simp [ExchangeRecord.chars, k, natTwo_eq, natChr, Port.toChr, Bool.toNat, Bool.cond_eq_ite, twoChars, hiChr, loChr]

theorem Notice.chars_eq (n : Notice) :
    n.chars = [n.stamp.extractLsb' 8 8, n.stamp.extractLsb' 0 8, n.kind.code,
      BitVec.ofNat 8 ((if n.port.isSome then 1 else 0) + (if n.address.isSome then 2 else 0)
        + (if n.detail.isSome then 4 else 0)),
      (n.port.map Port.toChr).getD 0, n.address.getD 0,
      (n.detail.getD 0).extractLsb' 8 8, (n.detail.getD 0).extractLsb' 0 8] := by
  simp [Notice.chars, twoChars, hiChr, loChr, natChr, Bool.toNat, Bool.cond_eq_ite]

theorem length_flatMap_records {α : Type} {f : α → List Chr} {k : Nat} (h : ∀ x, (f x).length = k) (xs : List α) :
    (xs.flatMap f).length = xs.length * k := by
  simp [List.length_flatMap, h]

/-! ### EXCHANGE_LIST (R73) -/

/-- The answer of EXCHANGE_LIST, for any spelling `f` of a record's characters. -/
theorem doExchangeList_eq (s : State) {f : ExchangeRecord → List Chr} (layout : ∀ r, r.chars = f r) :
    s.doExchangeList = (s, ⟨.ok, BitVec.ofNat 8 (s.exchanges.oldestFirst s.exchanges.records).length ::
      (s.exchanges.oldestFirst s.exchanges.records).flatMap f⟩) := by
  obtain rfl := funext layout
  rfl

theorem execute_exchangeList (s : State) (id : RequestId) :
    s.execute .exchangeList id [] =
      let r := ({ s with agent := { s.agent with executing := some id } } : State).doExchangeList
      r.1.buildReply id r.2 := rfl

theorem exec_exchangeList {s : State} {seq : Chr} (h : Ready s ⟨seq, 0x0E⟩) :
    exec (.exchangeList seq) s =
      let r := ({ s with agent := { s.agent with executing := some ⟨seq, 0x0E⟩ } } : State).doExchangeList
      .next (r.1.buildReply ⟨seq, 0x0E⟩ r.2) :=
  (exec_ready (k := .exchangeList) rfl h rfl rfl).trans (congrArg _ (execute_exchangeList s _))

/-! ### NOTICE_READ (R168) -/

/-- The answer of NOTICE_READ to a maximum it takes, for any spelling `f` of a notice's characters. -/
theorem doNoticeRead_taken (s : State) {n : Chr} {f : Notice → List Chr} (low : 1 ≤ n.toNat) (high : n.toNat ≤ 24)
    (layout : ∀ x, x.chars = f x) :
    s.doNoticeRead n = ({ s with notices := { s.notices with records := s.notices.records.drop n.toNat } },
      ⟨.ok, [BitVec.ofNat 8 (min n.toNat s.notices.records.length)] ++ (s.notices.records.take n.toNat).flatMap f
        ++ [s.notices.nextStamp.extractLsb' 8 8, s.notices.nextStamp.extractLsb' 0 8]⟩) := by
  obtain rfl := funext layout
  have within : inRange 1 24 n.toNat = true := by simp [inRange, low, high]
  rw [State.doNoticeRead, if_pos within, ← List.length_take]
  rfl

theorem doNoticeRead_range (s : State) {n : Chr} (h : n.toNat = 0 ∨ 24 < n.toNat) :
    s.doNoticeRead n = (s, Answer.refuse .range) := by
  have outside : ¬ inRange 1 24 n.toNat = true := by
    simp only [inRange, Bool.and_eq_true, decide_eq_true_eq]
    omega
  exact if_neg outside

theorem execute_noticeRead (s : State) (id : RequestId) (n : Chr) :
    s.execute .noticeRead id [n] =
      let r := ({ s with agent := { s.agent with executing := some id } } : State).doNoticeRead n
      r.1.buildReply id r.2 := rfl

theorem exec_noticeRead {s : State} {seq n : Chr} (h : Ready s ⟨seq, 0x0F⟩) :
    exec (.noticeRead seq n) s =
      let r := ({ s with agent := { s.agent with executing := some ⟨seq, 0x0F⟩ } } : State).doNoticeRead n
      .next (r.1.buildReply ⟨seq, 0x0F⟩ r.2) :=
  (exec_ready (k := .noticeRead) rfl h rfl rfl).trans (congrArg _ (execute_noticeRead s _ n))

/-- Settles O48: both replies spell their table's records in the layout of the tables; at most 16 exchange records of
12 characters and at most 24 notices of 8 fit a reply. -/
theorem listAndDrainReplies : Obligations.ListAndDrainReplies := by
  refine ⟨fun seq s w ready ⟨few, _⟩ => ?_, fun seq n s w ready => ⟨_, exec_noticeRead ready, fun low high => ?_, ?_⟩⟩
  · have every := s.exchanges.oldestFirst_perm s.exchanges.records
    refine ⟨_, _, exec_exchangeList ready, every, s.exchanges.oldestFirst_fallingAge _,
      .of_result (doExchangeList_eq _ fun r => ?layout) w ?fits⟩
    case layout =>
      cases h : r.state
      case sending => rw [ExchangeRecord.chars_sending h]; cases r.request <;> rfl
      all_goals
        rw [ExchangeRecord.chars_not_sending (by rw [h]; exact ExchangeState.noConfusion), h]
        rfl
    case fits =>
      have table : s.exchanges.records.length ≤ 16 := few
      dsimp only
      rw [List.length_cons, length_flatMap_records (k := 12) fun _ => rfl, every.length_eq]
      omega
  · refine .of_result (doNoticeRead_taken _ low high fun x => ?layout) w ?fits
    case layout =>
      rw [Notice.chars_eq]
      simp only [List.cons.injEq, true_and, and_true]
      refine ⟨?_, ?_, ?_, ?_⟩
      · cases x.kind <;> rfl
      · cases x.port <;> rfl
      · cases x.address <;> rfl
      · cases x.detail <;> exact ⟨rfl, rfl⟩
    case fits =>
      dsimp only
      rw [List.length_append, List.length_append, length_flatMap_records (k := 8) fun _ => rfl, List.length_take,
        List.length_singleton, List.length_cons, List.length_singleton]
      omega
  · exact fun outside => .of_result (doNoticeRead_range _ outside) w (Nat.zero_le _)

end Sys2Proof.Machine
end

section
/-! PROOFS. A request that fails its length or CRC check (R176, Table 10-4a): the conditions in their order, and what
giving up the last reference of its descriptor leaves. -/

namespace Sys2Proof.Machine

/-! ### The conditions of a rejection, in their order (R176) -/

section
variable {cs : List Chr}

theorem rejection_short (h : cs.length < 5) : rejection cs = some .short := if_pos h

theorem rejection_long (h : 64 < cs.length) : rejection cs = some .long := by
  rw [rejection, if_neg (by omega), if_pos h]

theorem rejection_check (short : ¬ cs.length < 5) (long : ¬ 64 < cs.length)
    (h : cs.drop (cs.length - 2) ≠ twoChars (crc16 (cs.take (cs.length - 2)))) : rejection cs = some .check := by
  rw [rejection, if_neg short, if_neg long, if_neg h.symm]

/-- A telegram that meets a condition is rejected with the detail of the first one it meets. -/
theorem rejection_bad (h : cs.length < 5 ∨ 64 < cs.length
      ∨ cs.drop (cs.length - 2) ≠ twoChars (crc16 (cs.take (cs.length - 2)))) :
    ∃ why, rejection cs = some why ∧ why.code = if cs.length < 5 then 2 else if 64 < cs.length then 3 else 1 := by
  by_cases short : cs.length < 5
  · exact ⟨.short, rejection_short short, (if_pos short).symm⟩
  · by_cases long : 64 < cs.length
    · exact ⟨.long, rejection_long long, by rw [if_neg short, if_pos long]; rfl⟩
    · have check := (h.resolve_left short).resolve_left long
      exact ⟨.check, rejection_check short long check, by rw [if_neg short, if_neg long]; rfl⟩

end

/-! ### What becomes of the request -/

theorem takeHanded_rejected {s : State} {d : DescNo} {rest : List DescNo} {why : RejectReason}
    (handed : s.agent.requests = d :: rest) (h : rejection (s.pool.telegram d) = some why) :
    s.takeHanded =
      ({ s with agent := { s.agent with requests := rest }, pool := s.pool.giveUp d } : State).post .mgmtRejected
        (some .trunk) none (some why.code) := by
  simp only [State.takeHanded, handed, h]

/-- The holder's reference is the last one: the descriptor is released (R29, R85). -/
theorem Pool.giveUp_last {q : Pool} {d : DescNo} (h : (q.descriptor d).refs = 1) : q.giveUp d = q.release d := by
  simp [Pool.giveUp, h]

theorem Pool.release_descriptor_same (q : Pool) (d : DescNo) :
    (q.release d).descriptor d = Sys2Proof.Machine.freeDescriptor :=
  Pool.setDescriptor_same q d _

theorem Pool.release_descriptor_other (q : Pool) {d k : DescNo} (h : k ≠ d) :
    (q.release d).descriptor k = q.descriptor k :=
  Pool.setDescriptor_other q _ h

/-- Settles O34: the first condition met gives the reason, and the request goes no further than its rejection. -/
theorem badRequestIsRejected : Obligations.BadRequestIsRejected := by
  intro s d rest handed bad
  obtain ⟨why, rejected, code⟩ := rejection_bad bad
  refine ⟨?_, fun last => ?_⟩
  · rw [← code]
    exact congrArg Host.Outcome.next (takeHanded_rejected handed rejected)
  · rw [Pool.giveUp_last last, Pool.release_descriptor_same]
    exact ⟨rfl, fun k other => Pool.release_descriptor_other _ other⟩

end Sys2Proof.Machine
end

section
/-! PROOFS. STATUS (R182, Table 10-8). The reply is built while the restart-seen flag stands, and the flag is cleared in
the state the reply leaves. -/

namespace Sys2Proof.Machine

/-- The figures in the layout of Table 10-8. -/
theorem statusData_eq (s : State) :
    s.statusData = [s.straps.maddr.zeroExtend 8, s.straps.tbaud.zeroExtend 8, BitVec.ofNat 8 s.pool.freeDescriptorCount,
      BitVec.ofNat 8 s.pool.free.length, BitVec.ofNat 8 s.exchanges.records.length,
      BitVec.ofNat 8 s.notices.records.length, s.notices.nextStamp.extractLsb' 8 8,
      s.notices.nextStamp.extractLsb' 0 8] := by
  simp only [State.statusData, natChr, BitVec.ofNat_toNat]
  rfl

theorem execute_status (s : State) (id : RequestId) :
    s.execute .status id [] =
      let t := ({ s with agent := { s.agent with executing := some id } } : State).buildReply id
        (Answer.okWith s.statusData)
      { t with agent := { t.agent with restartSeen := false } } := rfl

theorem exec_status {s : State} {seq : Chr} (h : Ready s ⟨seq, 0x01⟩) :
    exec (.status seq) s =
      let t := ({ s with agent := { s.agent with executing := some ⟨seq, 0x01⟩ } } : State).buildReply ⟨seq, 0x01⟩
        (Answer.okWith s.statusData)
      .next { t with agent := { t.agent with restartSeen := false } } :=
  (exec_ready (k := .status) rfl h rfl rfl).trans (congrArg _ (execute_status s _))

/-- A reply leaves the restart-seen flag as it was. -/
theorem Replied.restartSeen {u t : State} {id : RequestId} {a : Answer} (h : Replied u t id a) :
    t.agent.restartSeen = u.agent.restartSeen := by
  rw [h.agent]

/-- Settles O36: with the flag put back, the state STATUS leaves is the one its reply leaves. -/
theorem statusReply : Obligations.StatusReply := by
  intro seq s w ready
  have replied := buildReply_executing (u := s) (id := ⟨seq, 0x01⟩) (a := Answer.okWith s.statusData)
    (x := some ⟨seq, 0x01⟩) w (show 8 ≤ 249 by decide)
  refine ⟨_, exec_status ready, rfl, ?_⟩
  rw [← statusData_eq, ← replied.restartSeen]
  exact replied

end Sys2Proof.Machine
end

section
/-! PROOFS. SETTINGS_READ (R185, Table 10-15): the layout of the settings record, and its reading back. -/

namespace Sys2Proof.Machine

/-! ### The settings record (Table 10-15, R192) -/

/-- A list of `n` characters is its characters at the places below `n`. -/
theorem map_getD_range {n : Nat} {cs : List Chr} (h : cs.length = n) :
    (List.range n).map (fun k => cs.getD k 0) = cs := by
  apply List.ext_getElem
  · simp [h]
  · intro i _ hi
    simp [hi]

theorem Settings.chars_length (x : Settings) : x.chars.length = 18 := rfl

theorem Settings.chars_eq {x : Settings} (h : x.filler.length = 8) :
    x.chars =
      [BitVec.ofNat 8 x.length, BitVec.ofNat 8 x.reasonPos,
        match x.check with | .noCheck => 0x00 | .sum8 => 0x01 | .crc16 => 0x02]
      ++ x.filler
      ++ [x.reasonNoAnswer, x.reasonDamaged, x.reasonUnreachable,
        BitVec.ofNat 8 (x.divisor / 256), BitVec.ofNat 8 (x.divisor % 256),
        BitVec.ofNat 8 (x.breakLength / 256), BitVec.ofNat 8 (x.breakLength % 256)] := by
  rw [Settings.chars, map_getD_range h, natTwo_eq, natTwo_eq, List.append_assoc, List.append_assoc]
  rfl

/-! ### Reading the record back -/

theorem natChr_toNat {n : Nat} (h : n < 256) : (natChr n).toNat = n := by
  rw [natChr, BitVec.toNat_ofNat, Nat.mod_eq_of_lt h]

theorem wordOf_hiChr_loChr (w : Word16) : wordOf (hiChr w) (loChr w) = w :=
  (BitVec.extractLsb'_append_extractLsb'_eq_extractLsb' rfl).trans BitVec.extractLsb'_eq_self

theorem wordOf_natTwo_toNat {n : Nat} (h : n < 65536) :
    (wordOf (hiChr (BitVec.ofNat 16 n)) (loChr (BitVec.ofNat 16 n))).toNat = n := by
  rw [wordOf_hiChr_loChr, BitVec.toNat_ofNat, Nat.mod_eq_of_lt h]

/-- Every field within its range stands in the characters the record has for it. -/
theorem Settings.bounds_of_inRanges {x : Settings} (h : x.inRanges = true) :
    x.length < 256 ∧ x.reasonPos < 256 ∧ x.divisor < 65536 ∧ x.breakLength < 65536 := by
  simp only [Settings.inRanges, inRange, Bool.and_eq_true, decide_eq_true_eq] at h
  omega

theorem parseCheck_chars (x : Settings) : parseCheck (param x.chars 2) = some x.check := by
  show parseCheck (match x.check with | .noCheck => 0x00 | .sum8 => 0x01 | .crc16 => 0x02) = some x.check
  cases x.check <;> rfl

/-- The settings record of a reply reads back as the settings. -/
theorem parseSettings_chars {x : Settings} (h : x.inRanges = true) (filler : x.filler.length = 8) :
    parseSettings x.chars = some x := by
  obtain ⟨lengthBound, posBound, divisorBound, breakBound⟩ := Settings.bounds_of_inRanges h
  have lengthField : (param x.chars 0).toNat = x.length := natChr_toNat lengthBound
  have posField : (param x.chars 1).toNat = x.reasonPos := natChr_toNat posBound
  have fillerField : ((List.range 8).map fun k => param x.chars (3 + k)) = x.filler := map_getD_range filler
  have divisorField : (wordOf (param x.chars 14) (param x.chars 15)).toNat = x.divisor :=
    wordOf_natTwo_toNat divisorBound
  have breakField : (wordOf (param x.chars 16) (param x.chars 17)).toNat = x.breakLength :=
    wordOf_natTwo_toNat breakBound
  simp only [parseSettings, parseCheck_chars, lengthField, posField, fillerField, divisorField, breakField]
  exact if_pos h

/-! ### SETTINGS_READ (R185) -/

theorem execute_settingsRead (s : State) (id : RequestId) :
    s.execute .settingsRead id [] =
      ({ s with agent := { s.agent with executing := some id } } : State).buildReply id
        (Answer.okWith s.agent.settings.chars) := rfl

theorem exec_settingsRead {s : State} {seq : Chr} (h : Ready s ⟨seq, 0x11⟩) :
    exec (.settingsRead seq) s =
      .next (({ s with agent := { s.agent with executing := some ⟨seq, 0x11⟩ } } : State).buildReply ⟨seq, 0x11⟩
        (Answer.okWith s.agent.settings.chars)) :=
  (exec_ready (k := .settingsRead) rfl h rfl rfl).trans (congrArg _ (execute_settingsRead s _))

/-- Settles O50: the reply is built from the settings as they stand; their ranges are what lets its characters hold
every field. -/
theorem settingsReadReply : Obligations.SettingsReadReply := by
  intro seq s w ready
  refine ⟨_, exec_settingsRead ready, buildReply_executing w (show 18 ≤ 249 by decide), Settings.chars_length _, ?_,
    parseSettings_chars⟩
  rintro x rfl eight
  exact (Settings.chars_eq eight).trans rfl

end Sys2Proof.Machine
end

section
/-! PROOFS. What the loss of a port leaves of the port itself and of its records (R63, R112, R126, R156), whatever the
cascade of closing exchanges does elsewhere. -/

namespace Sys2Proof.Machine

/-! ### Records of other ports' openings -/

/-- An opening leaves no record but those that stood and the one opened. -/
theorem ExchangeMonitor.mem_of_opening {m m' : ExchangeMonitor} {depth : Nat} {p : Port} {e : QueueEntry}
    {q : ExchangeRequest} (h : m.opening depth p e q = some m') {x : ExchangeRecord} (hx : x ∈ m'.records) :
    x ∈ m.records ∨ x = m.opened p e q := by
  have base : ∀ {n : ExchangeMonitor}, (∀ y ∈ n.records, y ∈ m.records) → x ∈ (n.append (m.opened p e q)).records →
      x ∈ m.records ∨ x = m.opened p e q := fun hn hm =>
    (List.mem_append.mp hm).imp (hn x) List.mem_singleton.mp
  have removed : ∀ y ∈ (m.removePair p e.line).records, y ∈ m.records := fun _ h => (List.mem_filter.mp h).1
  unfold ExchangeMonitor.opening at h
  split at h
  · cases h
  · split at h
    · cases h
    · simp only at h
      split at h
      · cases h; exact base removed hx
      · split at h
        · cases h
        · cases h; exact base (fun y h => removed y (List.mem_filter.mp h).1) hx

/-- Every record of `t` that targets `p` stood in `s` already. -/
def RecordsWithin (p : Port) (s t : State) : Prop := ∀ x ∈ t.exchanges.records, x.target = p → x ∈ s.exchanges.records

theorem RecordsWithin.of_eq {p : Port} {s t : State} (h : t.exchanges = s.exchanges) : RecordsWithin p s t :=
  fun _ hx _ => h ▸ hx

theorem RecordsWithin.trans {p : Port} {s t u : State} (a : RecordsWithin p s t) (b : RecordsWithin p t u) :
    RecordsWithin p s u := fun x hx ht => a x (b x hx ht) ht

/-! ### A port that is down and not held -/

/-- A branch that is not ACTIVE and whose head, if it has one, is not held: no cascade touches it. -/
structure OutOfService (p : Port) (s : State) : Prop where
  branch : p ≠ .trunk
  down : (s.port p).admin ≠ .active
  head : (s.scheduler p).phase ≠ .headHeld

/-- `t` has port `p` as `s` has it, and no record of it that `s` does not have. -/
structure LeftAlone (p : Port) (s t : State) : Prop where
  port : t.port p = s.port p
  records : RecordsWithin p s t

theorem LeftAlone.refl (p : Port) (s : State) : LeftAlone p s s := ⟨rfl, .of_eq rfl⟩

theorem LeftAlone.trans {p : Port} {s t u : State} (a : LeftAlone p s t) (b : LeftAlone p t u) : LeftAlone p s u :=
  ⟨b.port.trans a.port, a.records.trans b.records⟩

theorem OutOfService.of_port {p : Port} {s t : State} (h : OutOfService p s) (e : t.port p = s.port p) :
    OutOfService p t :=
  ⟨h.branch, e ▸ h.down, by rw [State.scheduler_def, e]; exact h.head⟩

/-- Operations that leave a port out of service alone do so in a row. -/
theorem LeftAlone.foldl {α : Type} {p : Port} {f : State → α → State}
    (h : ∀ s a, OutOfService p s → LeftAlone p s (f s a)) :
    ∀ (l : List α) (s : State), OutOfService p s → LeftAlone p s (l.foldl f s)
  | [], s, _ => .refl p s
  | a :: l, s, o => (h s a o).trans (LeftAlone.foldl h l _ (o.of_port (h s a o).port))

theorem firstAttempt_records (s : State) {p q : Port} (e : QueueEntry) (h : p ≠ q) :
    RecordsWithin q s (s.firstAttempt p e) := by
  unfold State.firstAttempt
  split
  · exact .of_eq (startAttempt_exchanges s p)
  · next r hr =>
    split
    · next m hm =>
      intro x hx ht
      rw [startAttempt_exchanges] at hx
      rcases ExchangeMonitor.mem_of_opening hm hx with k | k
      · exact k
      · rw [k] at ht; exact absurd ht h
    · exact .of_eq rfl

theorem decideHead_records (s : State) {p q : Port} (h : p ≠ q) : RecordsWithin q s (s.decideHead p) := by
  unfold State.decideHead
  split
  · exact .of_eq rfl
  · split
    · exact .of_eq rfl
    · split
      · exact firstAttempt_records s _ h
      · exact .of_eq rfl

/-- Deciding another port's head. -/
theorem decideHead_leftAlone (s : State) {p q : Port} (h : q ≠ p) : LeftAlone q s (s.decideHead p) :=
  ⟨(decideHead_attemptOnly s p).others q h, decideHead_records s (Ne.symm h)⟩

theorem redecidePort_leftAlone {s : State} {p q : Port} (o : OutOfService q s) : LeftAlone q s (s.redecidePort p) := by
  unfold State.redecidePort
  split
  · next held =>
    by_cases e : q = p
    · subst e; exact absurd held o.head
    · exact decideHead_leftAlone s e
  · exact .refl q s

theorem redecide_leftAlone {s : State} {q : Port} (o : OutOfService q s) : LeftAlone q s s.redecide :=
  LeftAlone.foldl (fun _ _ => redecidePort_leftAlone) _ s o

theorem settleDepth_exchanges (s : State) : s.settleDepth.exchanges = s.exchanges := by
  unfold State.settleDepth
  split
  · rfl
  · split <;> rfl

theorem settleDepth_port_branch (s : State) {q : Port} (h : q ≠ .trunk) : s.settleDepth.port q = s.port q := by
  unfold State.settleDepth
  split
  · rfl
  · split
    · exact State.onPort_port_other _ _ h
    · rfl

theorem tableChanged_leftAlone {s : State} {q : Port} (o : OutOfService q s) : LeftAlone q s s.tableChanged := by
  have settled : LeftAlone q s s.settleDepth := ⟨settleDepth_port_branch s o.branch, .of_eq (settleDepth_exchanges s)⟩
  exact settled.trans (redecide_leftAlone (o.of_port settled.port))

/-- A reply without an exchange request that the filter lets pass goes to another port and opens nothing. -/
theorem enqueue_leftAlone {s : State} {p q : Port} {e : QueueEntry} {line : Chr} {wide : Bool} (o : OutOfService q s)
    (passes : s.filter p line wide = none) (plain : e.request = none) : LeftAlone q s (s.enqueue p e) := by
  have other : q ≠ p := by
    rintro rfl
    unfold State.filter at passes
    rw [if_pos o.down] at passes
    cases passes
  exact ⟨(enqueue_spec s p e).1 q other, .of_eq (enqueue_exchanges s p e plain)⟩

/-- A stand-in reply opens no exchange (R70). -/
theorem standIn_exchanges (s : State) (r : ExchangeRecord) (o : CloseOutcome) :
    (s.standIn r o).exchanges = s.exchanges := by
  unfold State.standIn
  split
  · rfl
  · rfl
  · simp only
    split
    · exact enqueue_exchanges _ _ _ rfl
    · rfl

theorem standIn_leftAlone {s : State} {q : Port} (r : ExchangeRecord) (c : CloseOutcome) (o : OutOfService q s) :
    LeftAlone q s (s.standIn r c) := by
  refine ⟨?_, .of_eq (standIn_exchanges s r c)⟩
  unfold State.standIn
  split
  · rfl
  · rfl
  · simp only
    split
    · next passes =>
      rw [State.port_mk, State.get_ports]
      refine (enqueue_leftAlone ?_ passes ?_).port
      · exact o.of_port rfl
      · rfl
    · rfl

/-- The state with another exchange table. -/
abbrev State.withTable (s : State) (m : ExchangeMonitor) : State := { s with exchanges := m }

/-- The table as a close leaves it before anything follows (R57, R61 to R63, R68). -/
def ExchangeMonitor.closed (m : ExchangeMonitor) (r : ExchangeRecord) : CloseOutcome → ExchangeMonitor
  | .noAnswer => m.change r.target r.line ExchangeRecord.lapse
  | .damaged | .unreachable => m.removePair r.target r.line

theorem ExchangeMonitor.mem_closed_unreachable {m : ExchangeMonitor} {r x : ExchangeRecord} :
    x ∈ (m.closed r .unreachable).records ↔ x ∈ m.records ∧ x.onPair r.target r.line = false := by
  simp [ExchangeMonitor.closed, ExchangeMonitor.removePair]

/-- The state once EXCHANGE_CLOSED is posted and the stand-in reply, where it is ON, has been offered. -/
def State.closePosted (s : State) (r : ExchangeRecord) (o : CloseOutcome) : State :=
  let posted := s.post .exchangeClosed (some r.target) (some r.line) (some o.code)
  if r.standIn then posted.standIn r o else posted

theorem closePosted_exchanges (s : State) (r : ExchangeRecord) (o : CloseOutcome) :
    (s.closePosted r o).exchanges = s.exchanges := by
  unfold State.closePosted
  dsimp only
  split
  · exact standIn_exchanges _ r o
  · rfl

theorem closeExchange_eq (s : State) (r : ExchangeRecord) (o : CloseOutcome) :
    s.closeExchange r o =
      ((s.closePosted r o).withTable (s.exchanges.closed r o)).tableChanged := by
  rw [← closePosted_exchanges s r o]
  cases o <;> rfl

theorem closePosted_leftAlone {s : State} {q : Port} (r : ExchangeRecord) (c : CloseOutcome) (o : OutOfService q s) :
    LeftAlone q s (s.closePosted r c) := by
  unfold State.closePosted
  dsimp only
  split
  · have posted : OutOfService q (s.post .exchangeClosed (some r.target) (some r.line) (some c.code)) := o.of_port rfl
    exact ⟨(standIn_leftAlone r c posted).port, .of_eq (standIn_exchanges _ r c)⟩
  · exact ⟨rfl, .of_eq rfl⟩

/-- A table put in the place of another, none of its records of port `q` new, and what follows the change. -/
theorem tableReplaced_leftAlone {s : State} {q : Port} (m : ExchangeMonitor) (o : OutOfService q s)
    (old : ∀ x ∈ m.records, x ∈ s.exchanges.records) :
    LeftAlone q s (s.withTable m).tableChanged
      ∧ ∀ x ∈ (s.withTable m).tableChanged.exchanges.records, x.target = q → x ∈ m.records := by
  have changed := tableChanged_leftAlone (s := s.withTable m) (q := q) (o.of_port rfl)
  exact ⟨⟨changed.port, fun x hx ht => old x (changed.records x hx ht)⟩, changed.records⟩

/-- A close that frees its record leaves no record on the pair and opens none at a port out of service. -/
theorem closeExchange_unreachable {s : State} {q : Port} (r : ExchangeRecord) (o : OutOfService q s) :
    LeftAlone q s (s.closeExchange r .unreachable)
      ∧ ∀ x ∈ (s.closeExchange r .unreachable).exchanges.records, x.target = q → x.onPair r.target r.line = false := by
  have posted := closePosted_leftAlone r .unreachable o
  obtain ⟨changed, within⟩ := tableReplaced_leftAlone (s.exchanges.closed r .unreachable) (o.of_port posted.port)
    (fun x hx => by rw [closePosted_exchanges]; exact (ExchangeMonitor.mem_closed_unreachable.mp hx).1)
  rw [closeExchange_eq]
  exact ⟨posted.trans changed, fun x hx ht => (ExchangeMonitor.mem_closed_unreachable.mp (within x hx ht)).2⟩

/-- Closing a list of records UNREACHABLE, in its order. -/
def State.closeAll (s : State) (rs : List ExchangeRecord) : State := rs.foldl (fun t r => t.closeExchange r .unreachable) s

theorem closeAll_cons (s : State) (r : ExchangeRecord) (rs : List ExchangeRecord) :
    s.closeAll (r :: rs) = (s.closeExchange r .unreachable).closeAll rs := by
  unfold State.closeAll
  rw [List.foldl_cons]

/-- Closing a list of records of a port out of service: the port stays, and no record on their pairs is left. -/
theorem closeAll_unreachable {q : Port} (rs : List ExchangeRecord) : ∀ {s : State}, OutOfService q s →
    LeftAlone q s (s.closeAll rs)
      ∧ ∀ x ∈ (s.closeAll rs).exchanges.records, x.target = q → ∀ r ∈ rs, x.onPair r.target r.line = false := by
  induction rs with
  | nil => exact fun _ => ⟨.refl q _, fun _ _ _ _ hr => absurd hr List.not_mem_nil⟩
  | cons r rs ih =>
    intro s o
    obtain ⟨alone, cleared⟩ := closeExchange_unreachable r o
    obtain ⟨rest, gone⟩ := ih (o.of_port alone.port)
    rw [closeAll_cons]
    refine ⟨alone.trans rest, fun x hx ht y hy => ?_⟩
    rcases List.mem_cons.mp hy with rfl | hy
    · exact cleared x (rest.records x hx ht) ht
    · exact gone x hx ht y hy

/-- The open records that target a port, the youngest first (R63). -/
def State.doomed (s : State) (p : Port) : List ExchangeRecord :=
  (s.exchanges.oldestFirst (s.exchanges.records.filter fun r => decide (r.target = p) && r.isOpen)).reverse

theorem State.mem_doomed {s : State} {p : Port} {r : ExchangeRecord} :
    r ∈ s.doomed p ↔ r ∈ s.exchanges.records ∧ r.target = p ∧ r.isOpen = true := by
  unfold State.doomed
  rw [List.mem_reverse, (ExchangeMonitor.oldestFirst_perm (m := s.exchanges) _).mem_iff]
  simp

/-- The table without the LAPSED records of a port that have late hold (R63). -/
def ExchangeMonitor.dropLate (m : ExchangeMonitor) (p : Port) : ExchangeMonitor :=
  { m with records := m.records.filter fun r => !(decide (r.target = p) && !r.isOpen && r.lateHold) }

theorem ExchangeMonitor.mem_dropLate {m : ExchangeMonitor} {p : Port} {x : ExchangeRecord} :
    x ∈ (m.dropLate p).records ↔ x ∈ m.records ∧ (x.target = p → x.isOpen = false → x.lateHold = false) := by
  cases h : x.isOpen <;> simp [ExchangeMonitor.dropLate, h, imp_iff_not_or]

theorem targetLost_eq (s : State) (p : Port) :
    s.targetLost p =
      ((s.closeAll (s.doomed p)).withTable ((s.closeAll (s.doomed p)).exchanges.dropLate p)).tableChanged := rfl

/-- The Exchange Monitor's part of a port loss leaves the port alone and no open record or late hold on it (R63). -/
theorem targetLost_clears {s : State} {q : Port} (o : OutOfService q s) :
    LeftAlone q s (s.targetLost q)
      ∧ ∀ x ∈ (s.targetLost q).exchanges.records, x.target = q → x.isOpen = false ∧ x.lateHold = false := by
  obtain ⟨alone, gone⟩ := closeAll_unreachable (s.doomed q) o
  obtain ⟨changed, within⟩ := tableReplaced_leftAlone ((s.closeAll (s.doomed q)).exchanges.dropLate q)
    (o.of_port alone.port) fun x hx => (ExchangeMonitor.mem_dropLate.mp hx).1
  rw [targetLost_eq]
  refine ⟨alone.trans changed, fun x hx ht => ?_⟩
  obtain ⟨stood, late⟩ := ExchangeMonitor.mem_dropLate.mp (within x hx ht)
  have shut : x.isOpen = false := by
    by_contra isOpen
    have := gone x stood ht x (State.mem_doomed.mpr ⟨alone.records x stood ht, ht, by simpa using isOpen⟩)
    simp [ExchangeRecord.onPair] at this
  exact ⟨shut, late ht shut⟩

/-! ### The loss of a port -/

/-- A scheduler whose queue has been emptied (R112). The consecutive-abandon count stays. -/
def Scheduler.cleared (c : Scheduler) : Scheduler := { c with queue := [], phase := .empty, attempts := 0, backoffGap := 0 }

/-- The counters of a receiver that gives up what it has open (R126). -/
def PortState.abandonedCounters (x : PortState) : Counters :=
  match x.receiver with
  | .inTelegram _ _ | .discarding _ _ => x.counters.addRxDiscarded
  | .off | .settling | .idle | .echo _ => x.counters

theorem clearQueue_port (s : State) (p : Port) :
    (s.clearQueue p).port p = { s.port p with scheduler := (s.scheduler p).cleared } := by
  unfold State.clearQueue
  dsimp only
  split
  · exact State.onPort_port _ _ _
  · exact (State.post_port ..).trans (State.onPort_port _ _ _)

theorem clearQueue_port_other (s : State) {p q : Port} (h : q ≠ p) : (s.clearQueue p).port q = s.port q := by
  unfold State.clearQueue
  dsimp only
  split
  · exact State.onPort_port_other _ _ h
  · exact (State.post_port ..).trans (State.onPort_port_other _ _ h)

theorem clearQueue_exchanges (s : State) (p : Port) : (s.clearQueue p).exchanges = s.exchanges := by
  unfold State.clearQueue
  dsimp only
  split <;> rfl

theorem abandonTelegram_port (s : State) (p : Port) (r : Receiver) :
    (s.abandonTelegram p r).port p =
      { s.port p with receiver := r, counters := (s.port p).abandonedCounters } := by
  unfold State.abandonTelegram PortState.abandonedCounters
  cases h : (s.port p).receiver <;>
    simp only [State.count, State.onPort_port, State.port_mk, State.get_ports]

theorem abandonTelegram_port_other (s : State) {p q : Port} (r : Receiver) (h : q ≠ p) :
    (s.abandonTelegram p r).port q = s.port q := by
  unfold State.abandonTelegram
  dsimp only
  rw [State.onPort_port_other _ _ h]
  split
  · exact State.onPort_port_other _ _ h
  · exact State.onPort_port_other _ _ h
  all_goals rfl

theorem abandonTelegram_exchanges (s : State) (p : Port) (r : Receiver) :
    (s.abandonTelegram p r).exchanges = s.exchanges := by
  unfold State.abandonTelegram
  dsimp only
  split <;> rfl

/-- The port once its line is cut and its queue is empty, before its telegram is abandoned (R112, R156). -/
def PortState.downed (x : PortState) (admin : AdminState) : PortState :=
  { x with
    admin := admin, limitReached := false, transmitter := x.transmitter.cutShort, scheduler := x.scheduler.cleared }

/-- The state in which a port loss reaches the Exchange Monitor: the port is down and its queue empty. -/
def State.portDown (s : State) (p : Port) (admin : AdminState) : State :=
  (s.onPort p fun x => { x with admin := admin, limitReached := false, transmitter := x.transmitter.cutShort }).clearQueue p

theorem portLoss_eq (s : State) (p : Port) (admin : AdminState) :
    s.portLoss p admin = ((s.portDown p admin).targetLost p).abandonTelegram p .off := rfl

theorem portDown_port (s : State) (p : Port) (admin : AdminState) :
    (s.portDown p admin).port p = (s.port p).downed admin := by
  unfold State.portDown
  rw [clearQueue_port]
  simp [State.scheduler, PortState.downed]

theorem portDown_port_other (s : State) {p q : Port} (admin : AdminState) (h : q ≠ p) :
    (s.portDown p admin).port q = s.port q :=
  (clearQueue_port_other _ h).trans (State.onPort_port_other _ _ h)

theorem portDown_outOfService (s : State) {p : Port} {admin : AdminState} (branch : p ≠ .trunk) (down : admin ≠ .active) :
    OutOfService p (s.portDown p admin) := by
  refine ⟨branch, ?_, ?_⟩
  · rw [portDown_port]; exact down
  · rw [State.scheduler_def, portDown_port]; exact nofun

/-- What a port loss leaves of the branch that is lost (R112, R126, R156). -/
theorem portLoss_port (s : State) {p : Port} {admin : AdminState} (branch : p ≠ .trunk) (down : admin ≠ .active) :
    (s.portLoss p admin).port p =
      { (s.port p).downed admin with receiver := .off, counters := (s.port p).abandonedCounters } := by
  rw [portLoss_eq, abandonTelegram_port, (targetLost_clears (portDown_outOfService s branch down)).1.port, portDown_port]
  rfl

/-- No open record and no late hold is left on a branch that is lost (R63). -/
theorem portLoss_records (s : State) {p : Port} {admin : AdminState} (branch : p ≠ .trunk) (down : admin ≠ .active) :
    ∀ x ∈ (s.portLoss p admin).exchanges.records, x.target = p → x.isOpen = false ∧ x.lateHold = false := by
  rw [portLoss_eq, abandonTelegram_exchanges]
  exact (targetLost_clears (portDown_outOfService s branch down)).2

end Sys2Proof.Machine
end

section
/-! PROOFS. What a step is made of. `Move` lists the changes of state from which every command, every event and the tick
are built, each with what it takes for granted; `exec_moves` says that a command is a chain of them. An invariant every
step keeps is then an invariant every move keeps.

Between two moves the unit at work may hold what no block of the state shows: a completion taken from its FIFO, an entry
taken from its queue, a port whose loss is not yet complete. `Held` names these things. -/

namespace Sys2Proof.Machine

/-! ### What the unit at work holds -/

/-- `hands`: descriptors whose RECEIVING reference the unit at work holds. `loose`: descriptors named by entries that have
left their queue and not yet given up their reference. `lost`: the port whose loss is going on. -/
structure Held where
  hands : List DescNo
  loose : List DescNo
  lost : Option Port

/-- Between two steps nothing is held. -/
def Held.nothing : Held := ⟨[], [], none⟩

/-- The descriptor a receiver holds (Table 6-2). -/
def Receiver.names : Receiver → Option DescNo
  | .inTelegram d _ => some d
  | .off | .settling | .idle | .discarding _ _ | .echo _ => none

/-- The four counters stay within 16 bits (R161). -/
def Counters.Bounded (c : Counters) : Prop :=
  c.rxTelegrams ≤ Config.counterMax ∧ c.rxDiscarded ≤ Config.counterMax ∧ c.txTelegrams ≤ Config.counterMax
    ∧ c.collisions ≤ Config.counterMax

/-- `n` holds the records of `m` but for some, each on its pair, none of them open that was not. -/
def ExchangeMonitor.Thinned (m n : ExchangeMonitor) : Prop :=
  ∃ (keep : ExchangeRecord → Bool) (f : ExchangeRecord → ExchangeRecord), n.records = (m.records.filter keep).map f
    ∧ ∀ r, (f r).target = r.target ∧ (f r).line = r.line ∧ ((f r).isOpen = true → r.isOpen = true)

/-- `n` holds the records of `m`, each on its pair and open as it was. -/
def ExchangeMonitor.Relabelled (m n : ExchangeMonitor) : Prop :=
  ∃ f : ExchangeRecord → ExchangeRecord, n.records = m.records.map f
    ∧ ∀ r, (f r).target = r.target ∧ (f r).line = r.line ∧ (f r).isOpen = r.isOpen

/-- A port that is down holds nothing: no queue, no phase, no reception, and no open record targets it. -/
def State.Silent (s : State) (p : Port) : Prop :=
  (s.scheduler p).queue = [] ∧ (s.scheduler p).phase = .empty ∧ (s.port p).receiver = .off
    ∧ ∀ r ∈ s.exchanges.records, r.target = p → r.isOpen = false

/-! ### States with one block changed -/

abbrev State.withPool (s : State) (q : Pool) : State := { s with pool := q }
abbrev State.withAgent (s : State) (a : Agent) : State := { s with agent := a }
abbrev State.withRoutes (s : State) (r : RouteUnit) : State := { s with routes := r }
abbrev State.withTrunk (s : State) (x : TrunkState) : State := { s with trunk := x }
abbrev State.withNotices (s : State) (q : NoticeQueue) : State := { s with notices := q }

/-- An entry joins the tail of a queue and adds its reference (R85, R95); its head is not decided yet. -/
def State.join (s : State) (p : Port) (e : QueueEntry) : State :=
  (s.withPool (s.pool.addRef e.desc)).onScheduler p fun c => { c with queue := c.queue ++ [e] }

/-- The state with a reply written, kept for replay and its command ended (R175). -/
def State.replyWritten (s : State) (id : RequestId) (a : Answer) : State :=
  { s with
    pool := s.pool.writeReply s.mgmtAddress (s.replyChars id a)
    agent := { s.agent with replay := some id, executing := none } }

/-- The trunk with the pending format installed (R152, R153). -/
def State.formatInstalled (s : State) (f : FormatRecord) : State :=
  let old := (s.port .trunk).format.overlap
  let wait := decide (f.overlap < s.exchanges.openCount .trunk)
  ({ s with trunk := { s.trunk with pendingFormat := none, pendingDepth := if wait then some f.overlap else none } } :
    State).onPort .trunk fun x => { x with format := if wait then { f with overlap := old } else f }

/-- What a warm restart leaves once the completions already raised are decided. -/
def State.warmed (s : State) : State :=
  let ports := s.ports.map PortState.warm
  { s with
    ports := { ports with trunk := { ports.trunk with format := ports.trunk.format.withDepth s.trunk.pendingDepth } }
    trunk := { s.trunk with pendingFormat := none, pendingDepth := none }
    pool := freePool s.pool.cells
    routes := { s.routes with shadow := s.routes.shadow.afterWarm, validatePos := 0, reseedPos := 0 }
    exchanges := { s.exchanges with records := [], nextSeq := 0 }
    agent := s.agent.warm }

/-! ### The moves -/

inductive Move : State → Held → State → Held → Prop
  -- a line, its counters and its monitor
  | line (s g) (p : Port) (x : PortState) (same : x = { (s.port p).withLine x with transmitter := x.transmitter })
      (seen : ((s.port p).rxPin = .space → (s.port p).monitor ≠ .released) → x.rxPin = .space → x.monitor ≠ .released) :
      Move s g (s.setPort p x) g
  | counters (s g) (p : Port) (c : Counters) (bounded : (s.port p).counters.Bounded → c.Bounded) :
      Move s g (s.setPort p { s.port p with counters := c }) g
  | breakState (s g) (b : BreakState) : Move s g (s.withTrunk { s.trunk with breakState := b }) g
  | notices (s g) (q : NoticeQueue)
      (bounded : s.notices.records.length ≤ Config.noticeCount → q.records.length ≤ Config.noticeCount) :
      Move s g (s.withNotices q) g
  -- receivers
  | receiver (s g) (p : Port) (r : Receiver) (names : r.names = (s.port p).receiver.names)
      (off : (s.port p).receiver = .off → r = .off) : Move s g (s.setPort p { s.port p with receiver := r }) g
  | close (s g) (p : Port) (c : Completion) (isOpen : openCompletion s.pool (s.port p).receiver = some c) :
      Move s g (s.setPort p { s.port p with receiver := .idle, completions := (s.port p).completions ++ [c] }) g
  | letGo (s h l u) (p : Port) (d : DescNo) (b : Bool) (held : (s.port p).receiver = .inTelegram d b) :
      Move s ⟨h, l, u⟩ (s.setPort p { s.port p with receiver := .off }) ⟨d :: h, l, u⟩
  | takeCompletion (s h l u) (p : Port) (c : Completion) (rest : List Completion)
      (raised : (s.port p).completions = c :: rest) :
      Move s ⟨h, l, u⟩ (s.setPort p { s.port p with completions := rest }) ⟨c.desc.toList ++ h, l, u⟩
  -- storage
  | openTelegram (s g) (p : Port) (a : Chr) (dm : Option Damage) (d : DescNo) (b : Bool) (q : Pool)
      (idle : (s.port p).receiver = .idle) (taken : s.pool.openTelegram p a dm = some (d, b, q)) :
      Move s g ((s.withPool q).setPort p { s.port p with receiver := .inTelegram d b }) g
  | damage (s g) (d : DescNo) (dm : Option Damage) : Move s g (s.withPool (s.pool.recordDamage d dm)) g
  | storeBody (s g) (p : Port) (d : DescNo) (b : Bool) (c : Chr) (held : (s.port p).receiver = .inTelegram d b) :
      Move s g (s.withPool (s.pool.storeBody d c).2) g
  | fillStandIn (s h l u) (d : DescNo) (c : CellNo) (q : Pool) (r : ExchangeRecord) (cs : List Chr) (wide : Bool)
      (free : s.pool.freeDescriptor? = some d) (cell : s.pool.takeCell = some (c, q)) :
      Move s ⟨h, l, u⟩ (s.withPool (q.fillStandIn d c r cs wide)) ⟨d :: h, l, u⟩
  | giveUp (s h l u) (d : DescNo) : Move s ⟨d :: h, l, u⟩ (s.withPool (s.pool.giveUp d)) ⟨h, l, u⟩
  | dropRef (s h l u) (d : DescNo) : Move s ⟨h, d :: l, u⟩ (s.withPool (s.pool.dropRef d)) ⟨h, l, u⟩
  -- schedulers and queues
  | scheduler (s g) (p : Port) (c : Scheduler) (queue : c.queue = (s.scheduler p).queue)
      (phase : c.phase = (s.scheduler p).phase ∨ c.phase = .empty ∨ c.queue ≠ []) :
      Move s g (s.setPort p { s.port p with scheduler := c }) g
  | start (s g) (p : Port) (x : Transmitter) (queue : (s.scheduler p).queue ≠ [])
      (names : (s.port p).receiver.names = none) :
      Move s g (s.setPort p { s.port p with
        receiver := .echo 0, transmitter := x, scheduler := { s.scheduler p with phase := .onLine } }) g
  | join (s g) (p : Port) (e : QueueEntry) (line : Chr) (wide : Bool) (held : e.desc ∈ g.hands)
      (passes : s.filter p line wide = none) : Move s g (s.join p e) g
  | reply (s g) (id : RequestId) (a : Answer)
      (ready : s.agent.executing.isSome = true ∨ (s.pool.descriptor 0).refs = 0) :
      Move s g ((s.replyWritten id a).join .trunk ⟨0, s.mgmtAddress, none⟩) g
  | replay (s g) (idle : s.agent.executing = none) (none : (s.pool.descriptor 0).refs = 0) :
      Move s g (s.join .trunk ⟨0, s.mgmtAddress, .none⟩) g
  | leave (s h l u) (p : Port) (c : Scheduler) (es : List QueueEntry)
      (queue : (c.queue ++ es).Perm (s.scheduler p).queue)
      (phase : c.phase = (s.scheduler p).phase ∨ c.phase = .empty ∨ c.queue ≠ []) :
      Move s ⟨h, l, u⟩ (s.setPort p { s.port p with scheduler := c }) ⟨h, es.map QueueEntry.desc ++ l, u⟩
  -- exchanges
  | opening (s g) (p : Port) (e : QueueEntry) (q : ExchangeRequest) (m : ExchangeMonitor)
      (active : (s.port p).admin = .active)
      (accepted : s.exchanges.opening (s.port p).format.overlap p e q = some m) : Move s g (s.withTable m) g
  | thinned (s g) (m : ExchangeMonitor) (records : s.exchanges.Thinned m) : Move s g (s.withTable m).settleDepth g
  | relabelled (s g) (m : ExchangeMonitor) (records : s.exchanges.Relabelled m) : Move s g (s.withTable m) g
  | sent (s g) (p : Port) (d : DescNo) (r : ExchangeRecord) (sending : s.exchanges.sendingRecord p d = some r) :
      Move s g (s.withTable (s.exchanges.change p r.line ExchangeRecord.sent)) g
  -- administration
  | down (s h l) (p : Port) (a : AdminState) (branch : p.isBranch = true) (active : (s.port p).admin = .active)
      (down : a ≠ .active) : Move s ⟨h, l, none⟩ (s.setPort p { s.port p with admin := a }) ⟨h, l, some p⟩
  | silenced (s h l) (p : Port) (silent : s.Silent p) : Move s ⟨h, l, some p⟩ s ⟨h, l, none⟩
  | disabled (s g) (p : Port) (down : (s.port p).admin ≠ .active) :
      Move s g (s.setPort p { s.port p with admin := .disabled }) g
  | lastFault (s g) (p : Port) (x : Option FaultReason) : Move s g (s.setPort p { s.port p with lastFault := x }) g
  | activate (s h l) (p : Port) (branch : p.isBranch = true) (down : (s.port p).admin ≠ .active) :
      Move s ⟨h, l, none⟩ (s.activate p) ⟨h, l, none⟩
  | format (s h l) (p : Port) (f : FormatRecord) (branch : p.isBranch = true) (down : (s.port p).admin = .disabled)
      (ranges : f.inRanges = true) : Move s ⟨h, l, none⟩ (s.setPort p { s.port p with format := f }) ⟨h, l, none⟩
  | pendingFormat (s g) (f : FormatRecord) (ranges : f.inRanges = true) (fits : f.trunkOk = true) :
      Move s g (s.withTrunk { s.trunk with pendingFormat := some f }) g
  | install (s g) (f : FormatRecord) (waits : s.trunk.pendingFormat = some f) : Move s g (s.formatInstalled f) g
  -- the agent
  | agent (s g) (a : Agent) (executing : a.executing = s.agent.executing) (requests : a.requests = s.agent.requests)
      (ranges : s.agent.settings.inRanges = true → a.settings.inRanges = true) : Move s g (s.withAgent a) g
  | execute (s g) (id : RequestId) (none : (s.pool.descriptor 0).refs = 0) :
      Move s g (s.withAgent { s.agent with executing := some id }) g
  | hand (s h l u) (d : DescNo) :
      Move s ⟨d :: h, l, u⟩ (s.withAgent { s.agent with requests := s.agent.requests ++ [d] }) ⟨h, l, u⟩
  | takeRequest (s h l u) (d : DescNo) (rest : List DescNo) (handed : s.agent.requests = d :: rest) :
      Move s ⟨h, l, u⟩ (s.withAgent { s.agent with requests := rest }) ⟨d :: h, l, u⟩
  -- routes and restarts
  | routes (s g) (r : RouteUnit) (sound : BanksSound s → BanksSound (s.withRoutes r)) : Move s g (s.withRoutes r) g
  | warm (s) : Move s .nothing s.warmed .nothing
  | cold (s) (a : BitVec 4) (b : BitVec 2) :
      Move s .nothing (State.cold a b (s.ports.map PortState.rxPin) s.pool.cells s.pending) .nothing

/-- A chain of moves. -/
inductive Moves : State → Held → State → Held → Prop
  | refl (s g) : Moves s g s g
  | tail {s g t h u k} (chain : Moves s g t h) (last : Move t h u k) : Moves s g u k

theorem Move.one {s t : State} {g h : Held} (m : Move s g t h) : Moves s g t h := .tail (.refl s g) m

theorem Moves.trans {s t u : State} {g h k : Held} (a : Moves s g t h) (b : Moves t h u k) : Moves s g u k := by
  induction b with
  | refl => exact a
  | tail _ last ih => exact ih.tail last

/-- What every move keeps, every chain of moves keeps. -/
theorem Moves.invariant {I : State → Held → Prop} (keeps : ∀ {s g t h}, Move s g t h → I s g → I t h) {s t : State}
    {g h : Held} (m : Moves s g t h) (i : I s g) : I t h := by
  induction m with
  | refl => exact i
  | tail _ last ih => exact keeps last ih

/-- Operations that are moves are moves in a row. -/
theorem Moves.foldl {α : Type} {f : State → α → State} {g : Held} (h : ∀ s a, Moves s g (f s a) g) :
    ∀ (l : List α) (s : State), Moves s g (l.foldl f s) g
  | [], s => .refl s g
  | a :: l, s => by
    rw [List.foldl_cons]
    exact (h s a).trans (Moves.foldl h l _)

theorem Moves.ite {s t u : State} {g h : Held} {c : Prop} [Decidable c] (a : c → Moves s g t h) (b : ¬c → Moves s g u h) :
    Moves s g (if c then t else u) h := by
  split
  · next k => exact a k
  · next k => exact b k

end Sys2Proof.Machine
end

section
/-! PROOFS. Every operation the commands share is a chain of moves: heads and attempts, offers, stand-in replies, closes,
port losses, and the building of a reply. -/

namespace Sys2Proof.Machine

/-! ### Small changes -/

theorem post_moves (s : State) (g : Held) (k : NoticeKind) (port : Option Port) (a : Option Chr) (d : Option Word16) :
    Moves s g (s.post k port a d) g := by
  refine (Move.notices s g _ fun h => ?_).one
  unfold NoticeQueue.post
  dsimp only
  split
  · next room => rw [List.length_append]; exact room
  · exact h

/-- A change of one port's scheduler that keeps its queue, and its phase but for EMPTY or behind an entry. -/
theorem onScheduler_moves (s : State) (g : Held) (p : Port) (f : Scheduler → Scheduler)
    (queue : (f (s.scheduler p)).queue = (s.scheduler p).queue)
    (phase : (f (s.scheduler p)).phase = (s.scheduler p).phase ∨ (f (s.scheduler p)).phase = .empty
      ∨ (f (s.scheduler p)).queue ≠ []) : Moves s g (s.onScheduler p f) g :=
  (Move.scheduler s g p _ queue phase).one

theorem setPhase_moves (s : State) (g : Held) (p : Port) (ph : Phase) (queue : (s.scheduler p).queue ≠ []) :
    Moves s g (s.setPhase p ph) g :=
  onScheduler_moves s g p _ rfl (.inr (.inr queue))

theorem bump_le {n : Nat} (h : n ≤ Config.counterMax) : bump n ≤ Config.counterMax := by
  unfold bump
  split <;> omega

theorem Counters.Bounded.addRxTelegram {c : Counters} (h : c.Bounded) : c.addRxTelegram.Bounded :=
  ⟨bump_le h.1, h.2⟩

theorem Counters.Bounded.addRxDiscarded {c : Counters} (h : c.Bounded) : c.addRxDiscarded.Bounded :=
  ⟨h.1, bump_le h.2.1, h.2.2⟩

theorem Counters.Bounded.addTxTelegram {c : Counters} (h : c.Bounded) : c.addTxTelegram.Bounded :=
  ⟨h.1, h.2.1, bump_le h.2.2.1, h.2.2.2⟩

theorem Counters.Bounded.addCollision {c : Counters} (h : c.Bounded) : c.addCollision.Bounded :=
  ⟨h.1, h.2.1, h.2.2.1, bump_le h.2.2.2⟩

theorem count_moves (s : State) (g : Held) (p : Port) {f : Counters → Counters} (bounded : ∀ {c : Counters}, c.Bounded → (f c).Bounded) :
    Moves s g (s.count p f) g :=
  (Move.counters s g p _ bounded).one

/-! ### Heads and attempts -/

theorem closeTelegram_moves (s : State) (g : Held) (p : Port) : Moves s g (s.closeTelegram p) g := by
  unfold State.closeTelegram
  split
  · next c isOpen => exact (Move.close s g p c isOpen).one
  · exact .refl s g

theorem openCompletion_none {q : Pool} {r : Receiver} (h : openCompletion q r = none) : r.names = none := by
  cases r <;> simp_all [openCompletion, Receiver.names]

theorem closeTelegram_names (s : State) (p : Port) : ((s.closeTelegram p).port p).receiver.names = none := by
  unfold State.closeTelegram
  split
  · rw [State.onPort_port]; rfl
  · next shut => exact openCompletion_none shut

theorem startAttempt_moves (s : State) (g : Held) (p : Port) : Moves s g (s.startAttempt p) g := by
  unfold State.startAttempt
  split
  · exact .refl s g
  · next e rest queue =>
    refine (closeTelegram_moves s g p).tail (.start _ g p _ ?_ (closeTelegram_names s p))
    rw [(closeTelegram_attemptOnly s p).queue, queue]
    exact List.cons_ne_nil _ _

theorem firstAttempt_moves (s : State) (g : Held) (p : Port) (e : QueueEntry) (active : (s.port p).admin = .active)
    (queue : (s.scheduler p).queue ≠ []) : Moves s g (s.firstAttempt p e) g := by
  unfold State.firstAttempt
  split
  · exact startAttempt_moves s g p
  · split
    · next m accepted => exact (Move.opening s g p e _ m active accepted).one.trans (startAttempt_moves _ g p)
    · exact setPhase_moves s g p _ queue

/-- A head that is not held stands on an ACTIVE port. -/
theorem active_of_not_held {s : State} {p : Port} {e : QueueEntry} (h : ¬ s.held p e = true) : (s.port p).admin = .active := by
  by_contra down
  exact h (by simp [State.held, down])

theorem decideHead_moves (s : State) (g : Held) (p : Port) : Moves s g (s.decideHead p) g := by
  unfold State.decideHead
  split
  · exact onScheduler_moves s g p _ rfl (.inr (.inl rfl))
  · next e rest queue =>
    have waits : (s.scheduler p).queue ≠ [] := by rw [queue]; exact List.cons_ne_nil _ _
    refine .ite (fun _ => setPhase_moves s g p _ waits) fun free => ?_
    exact .ite (fun _ => firstAttempt_moves s g p e (active_of_not_held free) waits)
      fun _ => setPhase_moves s g p _ waits

theorem redecide_moves (s : State) (g : Held) : Moves s g s.redecide g :=
  Moves.foldl (fun t p => by unfold State.redecidePort; exact .ite (fun _ => decideHead_moves t g p) fun _ => .refl t g)
    Port.all s

/-- A thinner table, the pending depth settled and held heads decided again. -/
theorem tableChanged_moves {s : State} (g : Held) {m : ExchangeMonitor} (h : s.exchanges.Thinned m) :
    Moves s g (s.withTable m).tableChanged g :=
  (Move.thinned s g m h).one.trans (redecide_moves _ g)

/-! ### Offers -/

theorem enqueue_moves {s t : State} {g h : Held} {p : Port} {e : QueueEntry} (joined : Moves s g (t.join p e) h) :
    Moves s g (t.enqueue p e) h := by
  unfold State.enqueue
  exact .ite (fun _ => joined.trans (decideHead_moves _ h p)) fun _ => joined

theorem offerTo_moves (s : State) (g : Held) (p : Port) (e : QueueEntry) (wide : Bool) (held : e.desc ∈ g.hands) :
    Moves s g (s.offerTo p e wide).1 g := by
  unfold State.offerTo
  split
  · next passes => exact enqueue_moves (Move.join s g p e e.line wide held passes).one
  · exact post_moves s g _ _ _ _

theorem offerAll_moves (e : QueueEntry) (wide : Bool) (g : Held) (held : e.desc ∈ g.hands) (ps : List Port) :
    ∀ s : State, Moves s g (s.offerAll e wide ps).1 g := by
  induction ps with
  | nil => exact fun s => .refl s g
  | cons p ps ih => exact fun s => (offerTo_moves s g p e wide held).trans (ih _)

/-! ### Stand-in replies and closes -/

theorem standIn_moves (s : State) (g : Held) (r : ExchangeRecord) (o : CloseOutcome) : Moves s g (s.standIn r o) g := by
  obtain ⟨h, l, u⟩ := g
  unfold State.standIn
  split
  · exact post_moves s _ _ _ _ _
  · exact post_moves s _ _ _ _ _
  · next d c q free cell =>
    dsimp only
    split
    · next passes =>
      refine Moves.tail (enqueue_moves ?_) (.giveUp _ h l u d)
      exact (Move.fillStandIn s h l u d c q r _ _ free cell).one.tail
        (.join _ _ _ _ _ _ (List.mem_cons_self) passes)
    · exact ((Move.fillStandIn s h l u d c q r _ _ free cell).one.tail (.giveUp _ h l u d)).trans (post_moves _ _ _ _ _ _)

theorem closePosted_moves (s : State) (g : Held) (r : ExchangeRecord) (o : CloseOutcome) :
    Moves s g (s.closePosted r o) g := by
  unfold State.closePosted
  exact .ite (fun _ => (post_moves s g _ _ _ _).trans (standIn_moves _ g r o)) fun _ => post_moves s g _ _ _ _

theorem ExchangeMonitor.thinned_filter (m : ExchangeMonitor) (keep : ExchangeRecord → Bool) :
    m.Thinned { m with records := m.records.filter keep } :=
  ⟨keep, id, (List.map_id _).symm, fun _ => ⟨rfl, rfl, id⟩⟩

theorem ExchangeMonitor.thinned_lapse (m : ExchangeMonitor) (p : Port) (a : Chr) :
    m.Thinned (m.change p a ExchangeRecord.lapse) := by
  refine ⟨fun _ => true, fun r => if r.onPair p a then r.lapse else r, ?_, fun r => ?_⟩
  · rw [List.filter_true]; rfl
  · dsimp only
    split
    · exact ⟨rfl, rfl, nofun⟩
    · exact ⟨rfl, rfl, id⟩

theorem ExchangeMonitor.thinned_closed (m : ExchangeMonitor) (r : ExchangeRecord) (o : CloseOutcome) :
    m.Thinned (m.closed r o) := by
  cases o with
  | noAnswer => exact m.thinned_lapse r.target r.line
  | damaged => exact m.thinned_filter _
  | unreachable => exact m.thinned_filter _

theorem closeExchange_moves (s : State) (g : Held) (r : ExchangeRecord) (o : CloseOutcome) :
    Moves s g (s.closeExchange r o) g := by
  rw [closeExchange_eq]
  refine (closePosted_moves s g r o).trans (tableChanged_moves g ?_)
  rw [closePosted_exchanges]
  exact s.exchanges.thinned_closed r o

theorem freeRecord_moves (s : State) (g : Held) (p : Port) (a : Chr) : Moves s g (s.freeRecord p a) g :=
  tableChanged_moves g (s.exchanges.thinned_filter _)

theorem requestLost_moves (s : State) (g : Held) (p : Port) (d : DescNo) : Moves s g (s.requestLost p d) g := by
  unfold State.requestLost
  split
  · exact closeExchange_moves s g _ _
  · exact .refl s g

theorem targetLost_moves (s : State) (g : Held) (p : Port) : Moves s g (s.targetLost p) g := by
  rw [targetLost_eq]
  exact (Moves.foldl (fun t r => closeExchange_moves t g r .unreachable) (s.doomed p) s).trans
    (tableChanged_moves g (ExchangeMonitor.thinned_filter _ _))

/-! ### Entries that leave a queue -/

/-- Entries that have left a queue give up their references, in their order. -/
theorem dropEntries_moves (h : List DescNo) (u : Option Port) (es : List QueueEntry) :
    ∀ (s : State) (l : List DescNo), Moves s ⟨h, es.map QueueEntry.desc ++ l, u⟩ (s.dropEntries es) ⟨h, l, u⟩ := by
  induction es with
  | nil => exact fun s l => .refl s _
  | cons e es ih => exact fun s l => (Move.dropRef s h (es.map QueueEntry.desc ++ l) u e.desc).one.trans (ih _ l)

theorem popHead_moves (s : State) (g : Held) (p : Port) {e : QueueEntry} {rest : List QueueEntry}
    (queue : (s.scheduler p).queue = e :: rest) : Moves s g (s.popHead p e) g := by
  obtain ⟨h, l, u⟩ := g
  refine (Move.leave s h l u p { s.scheduler p with
    queue := (s.scheduler p).queue.tail, phase := .empty, attempts := 0, backoffGap := 0 } [e] ?_ (.inr (.inl rfl))).one.tail
    (.dropRef _ h l u e.desc)
  rw [queue]
  exact List.perm_append_comm

theorem clearQueue_moves (s : State) (g : Held) (p : Port) : Moves s g (s.clearQueue p) g := by
  obtain ⟨h, l, u⟩ := g
  have emptied := (Move.leave s h l u p (s.scheduler p).cleared (s.scheduler p).queue (.refl _) (.inr (.inl rfl))).one.trans
    (dropEntries_moves h u (s.scheduler p).queue _ l)
  unfold State.clearQueue
  exact .ite (fun _ => emptied) fun _ => emptied.trans (post_moves _ _ _ _ _ _)

/-! ### The loss of a port -/

theorem abandonTelegram_moves (s : State) (g : Held) (p : Port) : Moves s g (s.abandonTelegram p .off) g := by
  obtain ⟨h, l, u⟩ := g
  have plain : ∀ t : State, (t.port p).receiver.names = none →
      Moves t ⟨h, l, u⟩ (t.onPort p fun x => { x with receiver := .off }) ⟨h, l, u⟩ := fun t names =>
    (Move.receiver t _ p .off names.symm fun _ => rfl).one
  unfold State.abandonTelegram
  cases r : (s.port p).receiver with
  | inTelegram d b =>
    have order : ((({ s with pool := s.pool.giveUp d } : State).count p Counters.addRxDiscarded).onPort p
          fun x => { x with receiver := .off })
        = ((s.setPort p { s.port p with receiver := .off }).withPool (s.pool.giveUp d)).count p Counters.addRxDiscarded := by
      simp [State.count, State.onPort, State.setPort]
    dsimp only
    rw [order]
    exact ((Move.letGo s h l u p d b r).one.tail (.giveUp _ h l u d)).trans (count_moves _ _ p .addRxDiscarded)
  | discarding a n =>
    refine (count_moves s _ p .addRxDiscarded).trans (plain _ ?_)
    rw [State.count, State.onPort_port, r]; rfl
  | off => exact plain s (by rw [r]; rfl)
  | settling => exact plain s (by rw [r]; rfl)
  | idle => exact plain s (by rw [r]; rfl)
  | echo n => exact plain s (by rw [r]; rfl)

theorem isBranch_iff {p : Port} : p.isBranch = true ↔ p ≠ .trunk := by cases p <;> decide

/-- A branch that is lost is silent (R156). -/
theorem portLoss_silent (s : State) {p : Port} {admin : AdminState} (branch : p ≠ .trunk) (down : admin ≠ .active) :
    (s.portLoss p admin).Silent p := by
  have port := portLoss_port s branch down
  refine ⟨?_, ?_, ?_, fun x hx ht => (portLoss_records s branch down x hx ht).1⟩
  · rw [State.scheduler_def, port]; rfl
  · rw [State.scheduler_def, port]; rfl
  · rw [port]

theorem portLoss_moves (s : State) (h l : List DescNo) (p : Port) (admin : AdminState) (branch : p.isBranch = true)
    (active : (s.port p).admin = .active) (down : admin ≠ .active) :
    Moves s ⟨h, l, none⟩ (s.portLoss p admin) ⟨h, l, none⟩ := by
  refine Moves.tail ?_ (.silenced _ h l p (portLoss_silent s (isBranch_iff.mp branch) down))
  have cut : (s.onPort p fun x => { x with admin := admin, limitReached := false, transmitter := x.transmitter.cutShort })
      = (s.setPort p { s.port p with admin := admin }).onPort p
          fun x => { x with limitReached := false, transmitter := x.transmitter.cutShort } := by
    simp [State.onPort]
  unfold State.portLoss
  dsimp only
  rw [cut]
  refine ((Moves.tail (Move.down s h l p admin branch active down).one ?_).trans (clearQueue_moves _ _ p)).trans
    ((targetLost_moves _ _ p).trans (abandonTelegram_moves _ _ p))
  exact .line _ _ p _ rfl fun seen => seen

theorem faultPort_moves (s : State) (h l : List DescNo) (p : Port) (why : FaultReason) :
    Moves s ⟨h, l, none⟩ (s.faultPort p why) ⟨h, l, none⟩ := by
  unfold State.faultPort
  refine .ite (fun c => ?_) fun _ => .refl s _
  refine ((Move.lastFault s _ p (some why)).one.trans (post_moves _ _ _ _ _ _)).trans
    (portLoss_moves _ h l p .faulted c.1 ?_ nofun)
  rw [State.post_port, State.setPort_port]
  exact c.2

/-! ### Replies -/

theorem buildReply_moves (s : State) (g : Held) (id : RequestId) (a : Answer)
    (ready : s.agent.executing.isSome = true ∨ (s.pool.descriptor 0).refs = 0) : Moves s g (s.buildReply id a) g :=
  enqueue_moves (t := s.replyWritten id a) (Move.reply s g id a ready).one

/-- A command's operation that leaves the command executing, and its reply. -/
theorem answered_moves {s : State} {g : Held} {id : RequestId} {r : State × Answer} (m : Moves s g r.1 g)
    (executing : r.1.agent.executing = some id) : Moves s g (r.1.buildReply id r.2) g :=
  m.trans (buildReply_moves _ g id _ (.inl (by rw [executing]; rfl)))

theorem answerExecuting_moves (s : State) (g : Held) (code : Chr) (a : Answer) : Moves s g (s.answerExecuting code a) g := by
  unfold State.answerExecuting
  split
  · next id executing => exact .ite (fun _ => buildReply_moves s g id a (.inl (by rw [executing]; rfl))) fun _ => .refl s g
  · exact .refl s g

theorem queueReply_moves (s : State) (g : Held) (idle : s.agentBusy = false) : Moves s g s.queueReply g := by
  simp only [State.agentBusy, Bool.or_eq_false_iff, decide_eq_false_iff_not, not_not, Option.isSome_eq_false_iff,
    Option.isNone_iff_eq_none] at idle
  exact enqueue_moves (Move.replay s g idle.2 idle.1).one

end Sys2Proof.Machine
end

section
/-! PROOFS. Every event and every command is a chain of moves, and so is every step. -/

namespace Sys2Proof.Machine

/-! ### Admission -/

section
variable (s : State) (h l : List DescNo) (u : Option Port) (p : Port) (c : Completion)

/-- The reference the unit holds for a completion is given up, where it has a descriptor (R29). -/
theorem finishCompletion_moves : Moves s ⟨c.desc.toList ++ h, l, u⟩ (s.finishCompletion c) ⟨h, l, u⟩ := by
  unfold State.finishCompletion
  split
  · next d desc => rw [desc]; exact (Move.giveUp s h l u d).one
  · next desc => rw [desc]; exact .refl s _

theorem discardCompletion_moves : Moves s ⟨c.desc.toList ++ h, l, u⟩ (s.discardCompletion p c) ⟨h, l, u⟩ :=
  (count_moves s _ p .addRxDiscarded).trans (finishCompletion_moves _ h l u c)

theorem endOffer_moves {o : State × Bool} (m : Moves s ⟨c.desc.toList ++ h, l, u⟩ o.1 ⟨c.desc.toList ++ h, l, u⟩) :
    Moves s ⟨c.desc.toList ++ h, l, u⟩ (State.endOffer o p c) ⟨h, l, u⟩ :=
  .ite (fun _ => m.trans (finishCompletion_moves _ h l u c)) fun _ => m.trans (discardCompletion_moves _ h l u p c)

theorem reportDamaged_moves (g : Held) : Moves s g (s.reportDamaged p c) g := by
  have late := post_moves s g .lateReply (some p) (some c.address) none
  unfold State.reportDamaged
  dsimp only
  split
  · next r _ =>
    refine .ite (fun _ => closeExchange_moves s g r .damaged) fun _ => ?_
    exact .ite (fun _ => late.trans (freeRecord_moves _ g p _)) fun _ => .ite (fun _ => late) fun _ => .refl s g
  · exact .ite (fun _ => late) fun _ => .refl s g

theorem postDamage_moves (g : Held) : Moves s g (s.postDamage p c) g := by
  unfold State.postDamage
  split
  · exact .refl s g
  · exact .refl s g
  · exact post_moves s g _ _ _ _
  · exact post_moves s g _ _ _ _
  · exact .refl s g
  · exact post_moves s g _ _ _ _
  · exact post_moves s g _ _ _ _
  · exact post_moves s g _ _ _ _

variable {c} {d : DescNo} (desc : c.desc = some d)
include desc

theorem mem_hands : d ∈ (Held.mk (c.desc.toList ++ h) l u).hands := by simp [desc]

theorem carryReply_moves (r : ExchangeRecord) : Moves s ⟨c.desc.toList ++ h, l, u⟩ (s.carryReply p c d r) ⟨h, l, u⟩ :=
  endOffer_moves s h l u p c ((freeRecord_moves s _ p c.address).trans (offerTo_moves _ _ _ _ _ (mem_hands h l u desc)))

theorem handleMiss_moves : Moves s ⟨c.desc.toList ++ h, l, u⟩ (s.handleMiss p c d) ⟨h, l, u⟩ := by
  have discarded := discardCompletion_moves s h l u p c
  unfold State.handleMiss
  split
  · exact discarded
  · exact (post_moves s _ _ _ _ _).trans (discardCompletion_moves _ h l u p c)
  · exact .ite (fun _ => discarded) fun _ =>
      endOffer_moves s h l u p c (offerTo_moves s _ _ _ _ (mem_hands h l u desc))

theorem handleHit_moves (x : RouteEntry) (bank : BankId) :
    Moves s ⟨c.desc.toList ++ h, l, u⟩ (s.handleHit p c d x bank) ⟨h, l, u⟩ := by
  unfold State.handleHit
  extract_lets entry o t
  have ended : Moves s ⟨c.desc.toList ++ h, l, u⟩ t ⟨h, l, u⟩ :=
    endOffer_moves s h l u p c (offerAll_moves entry c.wide _ (mem_hands h l u desc) x.destinationList s)
  clear_value t
  exact .ite (fun _ => ended.tail (.routes t _ _ id)) fun _ => ended

theorem routeTelegram_moves : Moves s ⟨c.desc.toList ++ h, l, u⟩ (s.routeTelegram p c d) ⟨h, l, u⟩ := by
  unfold State.routeTelegram
  split
  · exact handleHit_moves s h l u p desc _ _
  · exact discardCompletion_moves s h l u p c
  · exact handleMiss_moves s h l u p desc

theorem admitWhole_moves : Moves s ⟨c.desc.toList ++ h, l, u⟩ (s.admitWhole p c d) ⟨h, l, u⟩ := by
  have routed : Moves s ⟨c.desc.toList ++ h, l, u⟩
      (if s.agent.forwarding then s.routeTelegram p c d else s.discardCompletion p c) ⟨h, l, u⟩ :=
    .ite (fun _ => routeTelegram_moves s h l u p desc) fun _ => discardCompletion_moves s h l u p c
  unfold State.admitWhole
  refine .ite (fun _ => ?_) fun _ => ?_
  · rw [desc]; exact (Move.hand s h l u d).one
  · split
    · exact .ite (fun _ => carryReply_moves s h l u p desc _) fun _ => routed
    · exact routed

end

theorem classify_moves (s : State) (h l : List DescNo) (u : Option Port) (p : Port) (c : Completion) :
    Moves s ⟨c.desc.toList ++ h, l, u⟩ (s.classify p c) ⟨h, l, u⟩ := by
  have counted := count_moves s ⟨c.desc.toList ++ h, l, u⟩ p .addRxTelegram
  have damaged := (((counted.trans (reportDamaged_moves _ p c _)).trans (postDamage_moves _ p c _)).trans
    (discardCompletion_moves _ h l u p c))
  unfold State.classify
  dsimp only
  split
  · next d desc _ => exact counted.trans (admitWhole_moves _ h l u p desc)
  · exact damaged
  · exact damaged

theorem takeCompletion_moves (s : State) (g : Held) (p : Port) : Moves s g (s.takeCompletion p) g := by
  obtain ⟨h, l, u⟩ := g
  unfold State.takeCompletion
  split
  · exact .refl s _
  · next c rest raised => exact (Move.takeCompletion s h l u p c rest raised).one.trans (classify_moves _ h l u p c)

/-! ### Restarts and the leaving of the management reply -/

theorem decideRaised_moves (g : Held) (n : Nat) : ∀ s : State, Moves s g (State.decideRaised n s) g := by
  induction n with
  | zero => exact fun s => .refl s g
  | succ n ih =>
    intro s
    unfold State.decideRaised
    split
    · next p _ => exact (takeCompletion_moves s g p).trans (ih _)
    · exact .refl s g

theorem warmRestart_eq (s : State) : s.warmRestart = (State.decideRaised s.raisedBound s).warmed := rfl

theorem warmRestart_moves (s : State) : Moves s .nothing s.warmRestart .nothing := by
  rw [warmRestart_eq]
  exact (decideRaised_moves .nothing _ s).tail (.warm _)

theorem coldReset_moves (s : State) : Moves s .nothing s.coldReset .nothing := (Move.cold s _ _).one

theorem installPending_moves (s : State) (g : Held) : Moves s g s.installPending g := by
  unfold State.installPending
  split
  · exact .refl s g
  · next f waits => exact (Move.install s g f waits).one.trans (redecide_moves _ g)

theorem replyLeft_moves (s : State) : Moves s .nothing s.replyLeft .nothing := by
  have installed := installPending_moves s .nothing
  unfold State.replyLeft
  dsimp only
  split
  · exact installed
  · exact (installed.trans (warmRestart_moves _)).trans (post_moves _ _ _ _ _ _)
  · exact installed.trans (coldReset_moves _)

/-! ### Transmission -/

/-- A change of one line, its transmitter, and nothing else of the port. -/
theorem onLine_moves (s : State) (g : Held) (p : Port) (f : PortState → PortState)
    (same : f (s.port p) = { (s.port p).withLine (f (s.port p)) with transmitter := (f (s.port p)).transmitter })
    (seen : ((s.port p).rxPin = .space → (s.port p).monitor ≠ .released) → (f (s.port p)).rxPin = .space →
      (f (s.port p)).monitor ≠ .released) : Moves s g (s.onPort p f) g :=
  (Move.line s g p _ same seen).one

/-- A line and its receiver change together. -/
theorem lineReceiver_moves (s : State) (g : Held) (p : Port) (x : PortState) (r : Receiver)
    (same : x = { (s.port p).withLine x with transmitter := x.transmitter })
    (seen : ((s.port p).rxPin = .space → (s.port p).monitor ≠ .released) → x.rxPin = .space → x.monitor ≠ .released)
    (names : r.names = (s.port p).receiver.names) (off : (s.port p).receiver = .off → r = .off) :
    Moves s g (s.setPort p { x with receiver := r }) g := by
  have kept : x.receiver = (s.port p).receiver := by rw [same]; rfl
  have moved := (Move.line s g p x same seen).one.tail
    (.receiver _ g p r (by rw [State.setPort_port, kept]; exact names) (by rw [State.setPort_port, kept]; exact off))
  rwa [State.setPort_port, State.setPort_setPort] at moved

theorem PortState.characterEnded_seen (x : PortState) (n : Nat) : (x.characterEnded n).monitor ≠ .released := by
  unfold PortState.characterEnded
  dsimp only
  split
  · exact nofun
  · assumption

theorem characterEnded_moves (s : State) (g : Held) (p : Port) (n : Nat) :
    Moves s g (s.onPort p fun x => x.characterEnded n) g :=
  onLine_moves s g p _ rfl fun _ _ => PortState.characterEnded_seen _ n

theorem abandonHead_moves (s : State) (p : Port) {e : QueueEntry} {rest : List QueueEntry}
    (queue : (s.scheduler p).queue = e :: rest) : Moves s .nothing (s.abandonHead p e) .nothing := by
  have gone := ((popHead_moves s .nothing p queue).trans
    (post_moves _ _ .txAbandoned (some p) (some e.line) none)).trans (requestLost_moves _ _ p e.desc)
  have left := (gone.trans (onScheduler_moves _ _ p (fun c => { c with abandons := min abandonsMax (c.abandons + 1) }) rfl
    (.inl rfl))).trans (.ite (c := e.desc = 0) (fun _ => replyLeft_moves _) fun _ => .refl _ _)
  unfold State.abandonHead
  dsimp only
  exact .ite (fun _ => left.trans (faultPort_moves _ [] [] p .contention)) fun _ => left.trans (decideHead_moves _ _ p)

theorem collide_moves (s : State) (p : Port) {e : QueueEntry} {rest : List QueueEntry}
    (queue : (s.scheduler p).queue = e :: rest) : Moves s .nothing (s.collide p e) .nothing := by
  unfold State.collide
  extract_lets n f cut
  have cutMoves : Moves s .nothing cut .nothing :=
    ((count_moves s _ p .addCollision).trans (onLine_moves _ _ p _ (by rfl) (by exact id))).trans
      (onScheduler_moves _ _ p _ (by rfl) (by exact .inl rfl))
  have waits : (cut.scheduler p).queue = e :: rest := by
    rw [← queue]
    simp [cut, State.count, State.onScheduler, State.scheduler]
  clear_value cut
  refine .ite (fun _ => ?_) fun _ => cutMoves.trans (abandonHead_moves cut p waits)
  exact cutMoves.trans (onScheduler_moves _ _ p _ rfl (.inr (.inr (by rw [waits]; exact List.cons_ne_nil _ _))))

/-- What a head on the line says of its scheduler and its receiver. -/
theorem onLine_some {s : State} {p : Port} {e : QueueEntry} {pos : Nat} (h : s.onLine p = some (e, pos)) :
    (s.scheduler p).phase = .onLine ∧ (∃ rest, (s.scheduler p).queue = e :: rest)
      ∧ (s.port p).receiver = .echo pos := by
  unfold State.onLine at h
  split at h
  · next phase queue receiver => cases h; exact ⟨phase, ⟨_, queue⟩, receiver⟩
  · cases h

theorem completeAttempt_moves (s : State) (p : Port) {e : QueueEntry} {pos : Nat} (h : s.onLine p = some (e, pos)) :
    Moves s .nothing (s.completeAttempt p e) .nothing := by
  obtain ⟨_, ⟨rest, queue⟩, receiver⟩ := onLine_some h
  unfold State.completeAttempt
  extract_lets released counted sent left
  have toReleased : Moves s .nothing released .nothing :=
    lineReceiver_moves s _ p { (s.port p).characterEnded 0 with transmitter := .rest } .idle rfl
      (fun _ _ => PortState.characterEnded_seen _ 0) (by rw [receiver]; rfl) (by rw [receiver]; exact nofun)
  have waits : (released.scheduler p).queue = e :: rest := by
    rw [← queue]; simp [released, State.scheduler, PortState.characterEnded]
  clear_value released
  have toCounted : Moves s .nothing counted .nothing :=
    ((toReleased.trans (popHead_moves released _ p waits)).trans (count_moves _ _ p .addTxTelegram)).trans
      (onScheduler_moves _ _ p _ rfl (.inl rfl))
  clear_value counted
  have toSent : Moves s .nothing sent .nothing := by
    unfold sent
    split
    · next r sending => exact toCounted.tail (.sent counted _ p e.desc r sending)
    · exact toCounted
  clear_value sent
  exact (toSent.trans (.ite (fun _ => replyLeft_moves sent) fun _ => .refl sent _)).trans (decideHead_moves _ _ p)

/-! ### Reception -/

theorem onSetPort (s : State) (p : Port) (x : PortState) (f : PortState → PortState) :
    (s.setPort p x).onPort p f = s.setPort p (f x) := by
  simp [State.onPort]

/-- A line at mark cannot break the rule that a line at space is seen. -/
theorem readMark_moves (s : State) (g : Held) (p : Port) : Moves s g (s.readMark p) g := by
  have seen : Moves s g (s.onPort p fun x =>
      { x with
        rxPin := .mark
        spaceSpan := 0
        spaceCount := 0
        limitReached := false
        monitor := if x.monitor = .spaceHeld then .busy else x.monitor
        markSpan := if x.monitor = .spaceHeld then 0 else x.markSpan
        charReceiver := if x.charReceiver = .awaitMark then .awaitStart else x.charReceiver }) g :=
    onLine_moves s g p _ (by rfl) (by exact fun _ h => nomatch h)
  unfold State.readMark
  cases p with
  | trunk => exact seen.tail (.breakState _ g .armed)
  | b1 => exact seen
  | b2 => exact seen
  | b3 => exact seen
  | b4 => exact seen

theorem PortState.edge_seen (x : PortState) : x.edge.monitor ≠ .released := by
  unfold PortState.edge
  dsimp only
  split
  · exact nofun
  · assumption

theorem afterReport_moves (s : State) (g : Held) (p : Port) (f : FormatRecord) (r : CharReport) :
    Moves s g (s.afterReport p f r) g := by
  unfold State.afterReport
  dsimp only
  refine .ite (fun _ => ?_) fun _ => ?_
  · have spaced : Moves s g (if (s.port p).rxPin = .mark then s.onPort p PortState.edge else s) g :=
      .ite (fun _ => onLine_moves s g p _ rfl fun _ _ => PortState.edge_seen _) fun _ => .refl s g
    exact spaced.trans (onLine_moves _ g p _ (by rfl) (by exact id))
  · exact (readMark_moves s g p).trans
      (onLine_moves _ g p _ (by rfl) fun _ _ => PortState.characterEnded_seen _ f.stopTail)

theorem ExchangeMonitor.relabelled_addressSeen (m : ExchangeMonitor) (p : Port) (a : Chr) :
    m.Relabelled (m.change p a ExchangeRecord.addressSeen) := by
  refine ⟨fun r => if r.onPair p a then r.addressSeen else r, rfl, fun r => ?_⟩
  dsimp only
  split
  · unfold ExchangeRecord.addressSeen ExchangeRecord.isOpen
    split <;> simp_all
  · exact ⟨rfl, rfl, rfl⟩

theorem addressCharacter_moves (s : State) (g : Held) (p : Port) (r : CharReport) (idle : (s.port p).receiver = .idle) :
    Moves s g (s.addressCharacter p r) g := by
  unfold State.addressCharacter
  extract_lets late told
  have toTold : Moves s g told g := (Move.relabelled s g _ (s.exchanges.relabelled_addressSeen p r.value)).one
  have idle : (told.port p).receiver = .idle := idle
  clear_value told
  split
  · next d b q taken => exact toTold.tail (.openTelegram told g p _ _ d b q idle taken)
  · refine (toTold.trans (post_moves _ _ _ _ _ _)).tail (.receiver _ g p _ ?_ ?_)
    · rw [State.post_port, idle]; rfl
    · rw [State.post_port, idle]; exact nofun

theorem bodyCharacter_moves (s : State) (g : Held) (p : Port) {d : DescNo} {b : Bool} (r : CharReport)
    (held : (s.port p).receiver = .inTelegram d b) : Moves s g (s.bodyCharacter p d b r) g := by
  have faulted := (Move.damage s g d (r.error.map CharError.damage)).one
  unfold State.bodyCharacter
  extract_lets q stored
  refine .ite (fun _ => ?_) fun _ => faulted
  refine (faulted.tail (.storeBody _ g p d b r.value held)).tail (.receiver _ g p (.inTelegram d stored.1) ?_ ?_)
  · exact (congrArg Receiver.names held).symm
  · exact fun off => absurd (held.symm.trans off) nofun

theorem echoCharacter_moves (s : State) (p : Port) (r : CharReport) :
    Moves s .nothing (s.echoCharacter p r) .nothing := by
  unfold State.echoCharacter
  split
  · next e pos onLine =>
    obtain ⟨_, ⟨rest, queue⟩, receiver⟩ := onLine_some onLine
    refine .ite (fun _ => .ite (fun _ => ?_) fun _ => collide_moves s p queue) fun _ => .refl s _
    exact (Move.receiver s _ p (.echo (pos + 1)) (by rw [receiver]; rfl) (by rw [receiver]; exact nofun)).one
  · exact .refl s _

/-- A receiver that has a telegram open, or discards one, is in IDLE once it is closed. -/
theorem closeTelegram_idle {s : State} {p : Port}
    (h : (∃ d b, (s.port p).receiver = .inTelegram d b) ∨ ∃ a n, (s.port p).receiver = .discarding a n) :
    ((s.closeTelegram p).port p).receiver = .idle := by
  obtain ⟨d, b, h⟩ | ⟨a, n, h⟩ := h <;> simp [State.closeTelegram, openCompletion, h]

theorem receiveCharacter_moves (s : State) (p : Port) (f : FormatRecord) (r : CharReport) :
    Moves s .nothing (s.receiveCharacter p f r) .nothing := by
  unfold State.receiveCharacter
  dsimp only
  split
  · exact .refl s _
  · exact .refl s _
  · next idle =>
    exact .ite (fun _ => addressCharacter_moves s _ p r idle) fun _ => count_moves s _ p .addRxDiscarded
  · next d b held =>
    exact .ite (fun _ => (closeTelegram_moves s _ p).trans
        (addressCharacter_moves _ _ p r (closeTelegram_idle (.inl ⟨d, b, held⟩))))
      fun _ => bodyCharacter_moves s _ p r held
  · next a n held =>
    refine .ite (fun _ => (closeTelegram_moves s _ p).trans
      (addressCharacter_moves _ _ p r (closeTelegram_idle (.inr ⟨a, n, held⟩)))) fun _ => ?_
    exact (Move.receiver s _ p _ (by rw [held]; rfl) (by rw [held]; exact nofun)).one
  · exact echoCharacter_moves s p r

theorem reachEndGap_moves (s : State) (g : Held) (p : Port) : Moves s g (s.reachEndGap p) g := by
  have reached : Moves s g (s.onPort p fun x => x.spanReached (x.format.span x.format.endGap)) g :=
    onLine_moves s g p _ (by rfl) (by exact id)
  unfold State.reachEndGap
  dsimp only
  split
  · next settling =>
    refine reached.tail (.receiver _ g p .idle ?_ ?_) <;> rw [State.onPort_port] <;>
      simp [PortState.spanReached, settling, Receiver.names]
  · exact reached.trans (closeTelegram_moves _ g p)
  · exact reached.trans (closeTelegram_moves _ g p)
  · exact reached
  · exact reached
  · exact reached

end Sys2Proof.Machine
end

section
/-! PROOFS. The route banks stay in order under every change the Route Table Unit makes; and every command, every event of
the table, the tick and so every step is a chain of moves. -/

namespace Sys2Proof.Machine

/-! ### Sound banks (R1, R15, R20) -/

section
variable {a : Chr}

/-- The banks by their roles, and what a reseed has copied. -/
def RouteUnit.Sound (mgmt : Chr) (r : RouteUnit) : Prop :=
  BankSound mgmt r.activeBank ∧ BankSound mgmt r.shadowBank
    ∧ (r.shadow = .reseeding → r.shadowBank.map RouteEntry.rank = (r.activeBank.map RouteEntry.rank).take r.reseedPos)

theorem banksSound_iff (s : State) : BanksSound s ↔ s.routes.Sound s.mgmtAddress := by
  unfold BanksSound RouteUnit.Sound RouteUnit.activeBank RouteUnit.shadowBank
  cases s.routes.active
  · exact Iff.rfl
  · exact ⟨fun ⟨x, y, z⟩ => ⟨y, x, z⟩, fun ⟨x, y, z⟩ => ⟨y, x, z⟩⟩

theorem BankSound.nil : BankSound a [] :=
  ⟨Nat.zero_le _, .nil, fun _ h => absurd h List.not_mem_nil⟩

theorem BankSound.ordered {es : List RouteEntry} (h : BankSound a es) : KeyOrdered es := h.2.1

/-- Entries changed each under its key, soundly. -/
theorem BankSound.map {es : List RouteEntry} (h : BankSound a es) {f : RouteEntry → RouteEntry}
    (rank : ∀ e, (f e).rank = e.rank) (sound : ∀ e ∈ es, e.sound a → (f e).sound a) : BankSound a (es.map f) := by
  obtain ⟨length, ordered, each⟩ := h
  have ranks : (es.map f).map RouteEntry.rank = es.map RouteEntry.rank := by simp [rank]
  refine ⟨by simpa using length, by rw [ranks]; exact ordered, fun e he => ?_⟩
  obtain ⟨x, hx, rfl⟩ := List.mem_map.mp he
  exact sound x hx (each x hx)

theorem map_rank_of_rank_eq {f : RouteEntry → RouteEntry} (rank : ∀ e, (f e).rank = e.rank) (es : List RouteEntry) :
    (es.map f).map RouteEntry.rank = es.map RouteEntry.rank := by simp [rank]

/-- A change of the active bank's entries, each under its key. -/
theorem RouteUnit.Sound.setActive_map {r : RouteUnit} (h : r.Sound a) {f : RouteEntry → RouteEntry}
    (rank : ∀ e, (f e).rank = e.rank) (sound : ∀ e ∈ r.activeBank, e.sound a → (f e).sound a) :
    (r.setActive (r.activeBank.map f)).Sound a := by
  obtain ⟨act, shad, copied⟩ := h
  have shadow : (r.setActive (r.activeBank.map f)).shadow = r.shadow := by
    unfold RouteUnit.setActive RouteUnit.setBank; split <;> rfl
  have pos : (r.setActive (r.activeBank.map f)).reseedPos = r.reseedPos := by
    unfold RouteUnit.setActive RouteUnit.setBank; split <;> rfl
  refine ⟨?_, ?_, fun reseeding => ?_⟩
  · rw [RouteUnit.setActive_activeBank]; exact act.map rank sound
  · rw [RouteUnit.setActive_shadowBank]; exact shad
  · rw [RouteUnit.setActive_activeBank, RouteUnit.setActive_shadowBank, map_rank_of_rank_eq rank, pos]
    exact copied (shadow ▸ reseeding)

/-- An edited shadow bank (R6, R7). -/
theorem RouteUnit.Sound.edited {r : RouteUnit} (h : r.Sound a) {es : List RouteEntry} (bank : BankSound a es) :
    (r.edited es).Sound a := by
  have act : (r.edited es).activeBank = r.activeBank := r.setShadow_activeBank es
  have shad : (r.edited es).shadowBank = es := r.setShadow_shadowBank es
  exact ⟨by rw [act]; exact h.1, by rw [shad]; exact bank, nofun⟩

/-- The shadow in a state that is not RESEEDING asks nothing of what is copied. -/
theorem RouteUnit.Sound.withShadow {r : RouteUnit} (h : r.Sound a) {x : ShadowState} (n k : Nat) (idle : x ≠ .reseeding) :
    ({ r with shadow := x, validatePos := n, reseedPos := k } : RouteUnit).Sound a :=
  ⟨h.1, h.2.1, fun reseeding => absurd reseeding idle⟩

theorem RouteUnit.Sound.swap {r : RouteUnit} (h : r.Sound a) : r.swap.Sound a := by
  obtain ⟨act, shad, active, shadow, pos, _⟩ := r.swap_spec
  refine ⟨by rw [act]; exact h.2.1, by rw [shad]; exact .nil, fun _ => ?_⟩
  rw [shad, pos]; rfl

theorem RouteUnit.Sound.startReseed {r : RouteUnit} (h : r.Sound a) : r.startReseed.Sound a := by
  have act : r.startReseed.activeBank = r.activeBank := r.setShadow_activeBank []
  have shad : r.startReseed.shadowBank = [] := r.setShadow_shadowBank []
  refine ⟨by rw [act]; exact h.1, by rw [shad]; exact .nil, fun _ => ?_⟩
  rw [shad]; rfl

/-- The copies are the first entries of the active bank, so one more is again (R15). -/
theorem RouteUnit.Sound.copyNext {r : RouteUnit} (h : r.Sound a) (reseeding : r.shadow = .reseeding) :
    r.copyNext.Sound a := by
  obtain ⟨⟨length, ordered, each⟩, ⟨_, _, copies⟩, copied⟩ := h
  cases next : r.activeBank[r.reseedPos]? with
  | none => 
    unfold RouteUnit.copyNext
    rw [next]
    exact ⟨⟨length, ordered, each⟩, ⟨‹_›, ‹_›, copies⟩, copied⟩
  | some e =>
    have act : r.copyNext.activeBank = r.activeBank := by
      rw [RouteUnit.copyNext_some next]; exact r.setShadow_activeBank _
    have shad : r.copyNext.shadowBank = r.shadowBank ++ [e] := by
      rw [RouteUnit.copyNext_some next]; exact r.setShadow_shadowBank _
    have pos : r.copyNext.reseedPos = r.reseedPos + 1 := by rw [RouteUnit.copyNext_some next]
    have ranks : (r.shadowBank ++ [e]).map RouteEntry.rank = (r.activeBank.map RouteEntry.rank).take (r.reseedPos + 1) := by
      rw [List.map_append, copied reseeding, List.take_add_one, List.getElem?_map, next]; rfl
    refine ⟨by rw [act]; exact ⟨length, ordered, each⟩, ?_, fun _ => by rw [act, shad, pos]; exact ranks⟩
    rw [shad]
    refine ⟨?_, by rw [ranks]; exact ordered.sublist (List.take_sublist _ _), fun x hx => ?_⟩
    · have := congrArg List.length ranks
      rw [List.length_map, List.length_take, List.length_map] at this
      omega
    · rcases List.mem_append.mp hx with hx | hx
      · exact copies x hx
      · rw [List.mem_singleton.mp hx]; exact each e (List.mem_of_getElem? next)

/-- Writing an entry puts it at its place, within 128 entries where the key is held or there is room (R1, R6). -/
theorem BankSound.insertEntry {es : List RouteEntry} (h : BankSound a es) {e : RouteEntry} (sound : e.sound a)
    (room : ¬((findEntry es e.arrival e.address).isNone ∧ Config.bankSize ≤ es.length)) :
    BankSound a (insertEntry e es) := by
  obtain ⟨length, ordered, each⟩ := h
  refine ⟨?_, insertEntry_ordered ordered, fun x hx => ?_⟩
  · rw [insertEntry_length e es ordered]
    split
    · omega
    · next fresh =>
      have : findEntry es e.arrival e.address = none := findEntry_isNone fun y hy k => fresh (List.any_eq_true.mpr ⟨y, hy, decide_eq_true k⟩)
      rw [this] at room
      simp only [Option.isNone_none, true_and, not_le] at room
      omega
  · rcases (mem_insertEntry ordered x).mp hx with rfl | ⟨hx, _⟩
    · exact sound
    · exact each x hx

theorem BankSound.removeEntry {es : List RouteEntry} (h : BankSound a es) (p : Port) (k : Chr) :
    BankSound a (removeEntry es p k) := by
  obtain ⟨length, ordered, each⟩ := h
  exact ⟨(List.length_filter_le _ _).trans length, ordered.sublist (List.filter_sublist.map _),
    fun x hx => each x (List.mem_filter.mp hx).1⟩

end

/-! ### Sound entries -/

/-- An entry as ROUTE_WRITE reads it has its allowance in range and is LIVE (R3, R193). -/
theorem parseRoute_sound {params : List Chr} {e : RouteEntry} {a : Chr} (h : parseRoute params = some e)
    (legal : e.legal a = true) : e.sound a := by
  refine ⟨legal, ?_⟩
  unfold parseRoute at h
  dsimp only at h
  split at h
  · next p reply allowance _ _ parsed =>
    split at h
    · cases h
      unfold parseAllowance at parsed
      have reloadBound := (wordOf (param params 9) (param params 10)).isLt
      have countBound := (wordOf (param params 7) (param params 8)).isLt
      split at parsed
      · split at parsed
        · next low => cases parsed; dsimp only; simp only [Bool.false_eq_true, if_false]; omega
        · cases parsed
      · cases parsed; rfl
    · cases h
  · cases h

/-- A LIVE entry is sound with any count in range. -/
theorem RouteEntry.sound_of_live {e : RouteEntry} {a : Chr} {al : Allowance} (legal : e.legal a = true)
    (live : e.retired = false) (reload : 1 ≤ al.reload ∧ al.reload ≤ 65535) {n : Nat} (low : 1 ≤ n) (high : n ≤ 65535) :
    ({ e with allowance := some { al with count := n } } : RouteEntry).sound a := by
  refine ⟨legal, reload.1, reload.2, ?_⟩
  change if e.retired then _ else _
  rw [live]
  exact ⟨low, high⟩

/-- The entries a count may leave. -/
def Counted.entry? : Counted → Option RouteEntry
  | .unchanged => none
  | .counted x | .retired x | .reloaded x _ => some x

/-- Counting a telegram against an entry leaves its key and keeps it sound (R20, R21). -/
theorem RouteEntry.count_sound {e : RouteEntry} {a : Chr} (h : e.sound a) :
    ∀ x ∈ e.count.entry?, x.rank = e.rank ∧ x.sound a := by
  obtain ⟨legal, each⟩ := h
  intro x hx
  unfold RouteEntry.count at hx
  split at hx
  · cases hx
  · next al allowance =>
    rw [allowance] at each
    obtain ⟨low, high, count⟩ := each
    split at hx
    · cases hx
    · next live =>
      rw [if_neg live] at count
      rw [Bool.not_eq_true] at live
      split at hx
      · next more =>
        cases hx
        exact ⟨rfl, sound_of_live legal live ⟨low, high⟩ more (by omega)⟩
      · split at hx
        · cases hx
          exact ⟨rfl, legal, low, high, rfl⟩
        · cases hx
          exact ⟨rfl, sound_of_live legal live ⟨low, high⟩ low high⟩

/-- Rearming an entry with an allowance keeps it sound (R23). -/
theorem RouteEntry.rearm_sound {e : RouteEntry} {a : Chr} (h : e.sound a) : e.rearm.sound a := by
  obtain ⟨legal, each⟩ := h
  refine ⟨legal, ?_⟩
  unfold RouteEntry.rearm
  cases al : e.allowance with
  | none => rfl
  | some al' =>
    rw [al] at each
    exact ⟨each.1, each.2.1, each.1, each.2.1⟩

/-! ### The Route Table Unit's events -/

/-- A change of the banks that keeps them sound. -/
theorem routes_moves (s : State) (g : Held) (r : RouteUnit)
    (sound : ∀ {a : Chr}, s.routes.Sound a → r.Sound a) : Moves s g (s.withRoutes r) g :=
  (Move.routes s g r fun h => (banksSound_iff _).mpr (sound ((banksSound_iff s).mp h))).one

theorem setActive_changeEntry_sound {r : RouteUnit} {a : Chr} (h : r.Sound a) {p : Port} {k : Chr} {e x : RouteEntry}
    (found : findEntry r.activeBank p k = some e) (rank : x.rank = e.rank) (sound : x.sound a) :
    (r.setActive (changeEntry r.activeBank p k fun _ => x)).Sound a := by
  obtain ⟨_, rfl, rfl⟩ := findEntry_some found
  refine h.setActive_map (fun y => ?_) fun y _ k => ?_
  · split
    · next key => rw [rank]; exact ((RouteEntry.rank_eq_iff y _ _).mpr key).symm
    · rfl
  · split
    · exact sound
    · exact k

theorem takeCount_moves (s : State) (g : Held) (p : Port) (k : Chr) : Moves s g (s.takeCount p k) g := by
  unfold State.takeCount
  split
  · exact .refl s g
  · next e found =>
    have sound : ∀ {a : Chr}, s.routes.Sound a → e.sound a := fun h => h.1.2.2 e (findEntry_some found).1
    extract_lets put
    have putMoves : ∀ x, (∀ {a : Chr}, e.sound a → x.rank = e.rank ∧ x.sound a) → Moves s g (put x) g := fun x hx =>
      routes_moves s g _ fun h => setActive_changeEntry_sound h found (hx (sound h)).1 (hx (sound h)).2
    split
    · exact .refl s g
    · next x counted => exact putMoves x fun h => RouteEntry.count_sound h x (counted ▸ rfl)
    · next x counted => exact (putMoves x fun h => RouteEntry.count_sound h x (counted ▸ rfl)).trans (post_moves _ _ _ _ _ _)
    · next x n counted =>
      exact (putMoves x fun h => RouteEntry.count_sound h x (counted ▸ rfl)).trans (post_moves _ _ _ _ _ _)

theorem endReseed_moves (s : State) (g : Held) : Moves s g s.endReseed g := by
  unfold State.endReseed
  refine .ite (fun _ => ?_) fun _ => .refl s g
  exact (routes_moves s g { s.routes with shadow := .clean } fun h => h.withShadow _ _ nofun).trans
    (answerExecuting_moves _ g _ _)

theorem commitSwap_moves (s : State) (g : Held) : Moves s g s.commitSwap g := by
  unfold State.commitSwap
  exact ((routes_moves s g s.routes.swap fun h => h.swap).trans (answerExecuting_moves _ g _ _)).trans (endReseed_moves _ g)

theorem commitConflict_moves (s : State) (g : Held) (e : RouteEntry) (why : ConflictReason) :
    Moves s g (s.commitConflict e why) g := by
  unfold State.commitConflict
  exact (routes_moves s g { s.routes with shadow := .edited } fun h => h.withShadow _ _ nofun).trans
    (answerExecuting_moves _ g _ _)

end Sys2Proof.Machine
end

section
/-! PROOFS. Every management command, every event and the tick is a chain of moves: `exec_moves`, `step_moves`. -/

namespace Sys2Proof.Machine

/-! ### What each management command does -/

/-- A command that has left the executing one as it was. -/
def CommandMoves (s : State) (r : State × Answer) : Prop :=
  Moves s .nothing r.1 .nothing ∧ r.1.agent.executing = s.agent.executing

theorem CommandMoves.same (s : State) (a : Answer) : CommandMoves s (s, a) := ⟨.refl s _, rfl⟩

theorem agent_moves (s : State) (g : Held) (a : Agent) (executing : a.executing = s.agent.executing)
    (requests : a.requests = s.agent.requests) (settings : a.settings = s.agent.settings) : Moves s g (s.withAgent a) g :=
  (Move.agent s g a executing requests fun h => settings ▸ h).one

theorem doForwarding_moves (s : State) (value : Chr) : CommandMoves s (s.doForwarding value) := by
  unfold State.doForwarding
  split
  · exact ⟨agent_moves s _ { s.agent with forwarding := false } rfl rfl rfl, rfl⟩
  · exact ⟨agent_moves s _ { s.agent with forwarding := true } rfl rfl rfl, rfl⟩
  · exact .same s _

theorem doPortRead_moves (s : State) (port : Chr) : CommandMoves s (s.doPortRead port) := by
  unfold State.doPortRead
  split <;> exact .same s _

theorem parseFormat_inRanges {cs : List Chr} {f : FormatRecord} (h : parseFormat cs = some f) : f.inRanges = true := by
  unfold parseFormat at h
  split at h
  · dsimp only at h
    split at h
    · next ok => cases h; exact (Bool.and_eq_true_iff.mp ok).1
    · cases h
  · cases h

theorem parseSettings_inRanges {cs : List Chr} {t : Settings} (h : parseSettings cs = some t) : t.inRanges = true := by
  unfold parseSettings at h
  split at h
  · cases h
  · dsimp only at h
    split at h
    · next ok => cases h; exact ok
    · cases h

theorem doPortFormat_moves (s : State) (params : List Chr) : CommandMoves s (s.doPortFormat params) := by
  unfold State.doPortFormat
  split
  · next f _ parsed =>
    split
    · next ok => exact ⟨(Move.pendingFormat s _ f (parseFormat_inRanges parsed) ok).one, rfl⟩
    · exact .same s _
  · next p f branch _ parsed =>
    split
    · next down =>
      refine ⟨(Move.format s [] [] p f (isBranch_iff.mpr ?_) down (parseFormat_inRanges parsed)).one, rfl⟩
      rintro rfl
      exact branch rfl
    · exact .same s _
  · exact .same s _

theorem activate_moves (s : State) (p : Port) (branch : p.isBranch = true) (down : (s.port p).admin ≠ .active) (a : Answer) :
    CommandMoves s (s.activate p, a) := ⟨(Move.activate s [] [] p branch down).one, rfl⟩

theorem doEnable_moves (s : State) (p : Port) : CommandMoves s (s.doEnable p) := by
  unfold State.doEnable
  split
  · next branch =>
    split
    · next down => exact activate_moves s p branch (by simp [down]) _
    · exact .same s _
    · exact .same s _
  · exact .same s _

theorem portLoss_agent (s : State) (p : Port) (admin : AdminState) : (s.portLoss p admin).agent = s.agent := by
  have abandoned : ∀ t : State, (t.abandonTelegram p .off).agent = t.agent := fun t => by
    unfold State.abandonTelegram
    split <;> rfl
  rw [portLoss_eq, abandoned, (targetLost_ripple _ p).agent]
  exact (clearQueue_ripple _ p).agent

theorem lastFault_moves (s : State) (g : Held) (p : Port) (x : Option FaultReason) :
    Moves s g (s.onPort p fun y => { y with lastFault := x }) g := (Move.lastFault s g p x).one

theorem doDisable_moves (s : State) (p : Port) : CommandMoves s (s.doDisable p) := by
  unfold State.doDisable
  split
  · next branch =>
    split
    · exact .same s _
    · next active =>
      exact ⟨(portLoss_moves s [] [] p .disabled branch active (by decide)).trans (lastFault_moves _ _ p none),
        congrArg Agent.executing (portLoss_agent s p .disabled)⟩
    · next down =>
      refine ⟨?_, rfl⟩
      have moved := (Move.disabled s .nothing p (by simp [down])).one.trans (lastFault_moves _ _ p none)
      simp only [State.onPort, State.setPort_port, State.setPort_setPort] at moved
      exact moved
  · exact .same s _

theorem doRecover_moves (s : State) (p : Port) : CommandMoves s (s.doRecover p) := by
  unfold State.doRecover
  split
  · next c => exact activate_moves s p c.1 (by simp [c.2.1]) _
  · exact .same s _

/-- A PURGE parts the queue into the entry on the line and the rest (R110). -/
theorem Scheduler.afterPurge_perm (c : Scheduler) : (c.afterPurge.queue ++ c.purged).Perm c.queue := by
  unfold Scheduler.afterPurge Scheduler.purged
  cases c.phase <;> simp only [List.nil_append, List.Perm.refl]
  rw [← List.drop_one, List.take_append_drop]

theorem Scheduler.afterPurge_phase (c : Scheduler) : c.afterPurge.phase = c.phase ∨ c.afterPurge.phase = .empty := by
  unfold Scheduler.afterPurge
  split
  · exact .inl rfl
  all_goals exact .inr rfl

theorem doPurge_moves (s : State) (p : Port) : CommandMoves s (s.doPurge p) := by
  have left : Moves s .nothing (s.onScheduler p Scheduler.afterPurge)
      ⟨[], (s.scheduler p).purged.map QueueEntry.desc ++ [], none⟩ :=
    (Move.leave s [] [] none p (s.scheduler p).afterPurge (s.scheduler p).purged (s.scheduler p).afterPurge_perm
      ((s.scheduler p).afterPurge_phase.imp id .inl)).one
  unfold State.doPurge
  extract_lets c gone emptied removed posted
  have dropped : ∀ (t : State) (es : List QueueEntry),
      Moves t ⟨[], es.map QueueEntry.desc ++ [], none⟩ (t.dropEntries es) .nothing := fun t es =>
    dropEntries_moves [] none es t []
  have removedMoves : Moves s .nothing removed .nothing ∧ removed.agent = s.agent := by
    unfold removed
    split
    · next e rest _ leaving =>
      have leaving : (s.scheduler p).purged = e :: rest := leaving
      rw [leaving] at left
      have first := dropEntries_moves [] none [e] emptied (rest.map QueueEntry.desc ++ [])
      exact ⟨((left.trans first).trans (requestLost_moves _ _ p e.desc)).trans (dropped _ rest),
        (requestLost_ripple _ p e.desc).agent⟩
    · exact ⟨left.trans (dropped _ _), rfl⟩
  clear_value removed
  have postedMoves : Moves s .nothing posted .nothing ∧ posted.agent = s.agent := by
    unfold posted
    split
    · exact removedMoves
    · exact ⟨removedMoves.1.trans (post_moves _ _ _ _ _ _), removedMoves.2⟩
  exact ⟨postedMoves.1, congrArg Agent.executing postedMoves.2⟩

theorem doPortControl_moves (s : State) (port action : Chr) : CommandMoves s (s.doPortControl port action) := by
  unfold State.doPortControl
  split
  · exact doEnable_moves s _
  · exact doDisable_moves s _
  · exact doRecover_moves s _
  · exact doPurge_moves s _
  · exact .same s _

/-- One change of every port is the same change of each port in turn. -/
theorem ports_map_eq (s : State) (f : PortState → PortState) :
    ({ s with ports := s.ports.map f } : State) = Port.all.foldl (fun t p => t.onPort p f) s := rfl

theorem clearCounters_moves (s : State) (g : Held) (p : Port) :
    Moves s g (s.onPort p fun x => { x with counters := zeroCounters }) g :=
  (Move.counters s g p zeroCounters fun _ => by unfold Counters.Bounded; decide).one

theorem doCountersClear_moves (s : State) (port : Chr) : CommandMoves s (s.doCountersClear port) := by
  unfold State.doCountersClear
  split
  · refine ⟨?_, rfl⟩
    rw [ports_map_eq]
    exact Moves.foldl (fun t p => clearCounters_moves t _ p) Port.all s
  · split
    · exact ⟨clearCounters_moves s _ _, rfl⟩
    · exact .same s _

/-! ### The route table commands -/

theorem doRouteWrite_moves (s : State) (params : List Chr) : CommandMoves s (s.doRouteWrite params) := by
  unfold State.doRouteWrite
  split
  · exact .same s _
  · split
    · exact .same s _
    · next e parsed =>
      dsimp only
      split
      · exact .same s _
      · next legal =>
        split
        · exact .same s _
        · next room =>
          have legal : e.legal s.mgmtAddress = true := by simpa using legal
          refine ⟨(Move.routes s _ (s.routes.edited (insertEntry e s.routes.shadowBank)) fun h => ?_).one, rfl⟩
          have sound := (banksSound_iff s).mp h
          exact (banksSound_iff _).mpr (sound.edited (sound.2.1.insertEntry (parseRoute_sound parsed legal) room))

theorem doRouteDelete_moves (s : State) (port address : Chr) : CommandMoves s (s.doRouteDelete port address) := by
  unfold State.doRouteDelete
  split
  · exact .same s _
  · exact .same s _
  · dsimp only
    split
    · exact .same s _
    · exact ⟨routes_moves s _ _ fun h => h.edited (h.2.1.removeEntry _ _), rfl⟩

theorem doRouteRead_moves (s : State) (bank port address : Chr) : CommandMoves s (s.doRouteRead bank port address) := by
  unfold State.doRouteRead
  split
  · exact .same s _
  · exact .same s _
  · split <;> exact .same s _

theorem doRouteList_moves (s : State) (bank port address : Chr) : CommandMoves s (s.doRouteList bank port address) := by
  unfold State.doRouteList
  split <;> exact .same s _

theorem doRouteRearm_moves (s : State) (port address : Chr) : CommandMoves s (s.doRouteRearm port address) := by
  unfold State.doRouteRearm
  split
  · exact .same s _
  · split
    · exact .same s _
    · split
      · exact .same s _
      · split
        · exact .same s _
        · refine ⟨routes_moves s _ _ fun h => h.setActive_map (fun e => ?_) fun e _ sound => ?_, rfl⟩
          · split <;> rfl
          · split
            · exact RouteEntry.rearm_sound sound
            · exact sound

theorem doExchangeList_moves (s : State) : CommandMoves s s.doExchangeList := .same s _

theorem doNoticeRead_moves (s : State) (maximum : Chr) : CommandMoves s (s.doNoticeRead maximum) := by
  unfold State.doNoticeRead
  split
  · refine ⟨(Move.notices s _ (s.notices.drain maximum.toNat) fun h => ?_).one, rfl⟩
    rw [NoticeQueue.drain, List.length_drop]
    omega
  · exact .same s _

theorem ExchangeMonitor.relabelled_tickCount (m : ExchangeMonitor) (n : Nat) :
    m.Relabelled { m with tickCount := n } := ⟨id, (List.map_id _).symm, fun _ => ⟨rfl, rfl, rfl⟩⟩

theorem doSettingsWrite_moves (s : State) (params : List Chr) : CommandMoves s (s.doSettingsWrite params) := by
  unfold State.doSettingsWrite
  split
  · exact .same s _
  · next t parsed =>
    exact ⟨(Move.agent s _ { s.agent with settings := t } rfl rfl fun _ => parseSettings_inRanges parsed).one.trans
      (Move.relabelled (s.withAgent { s.agent with settings := t }) _ { s.exchanges with
          tickCount := if t.divisor = s.agent.settings.divisor then s.exchanges.tickCount else 0 }
        (s.exchanges.relabelled_tickCount _)).one, rfl⟩

/-! ### Dispatch and the gates -/

/-- A command that is answered at once. -/
theorem CommandMoves.answered {s : State} {r : State × Answer} {id : RequestId} (m : CommandMoves s r)
    (executing : s.agent.executing = some id) : Moves s .nothing (r.1.buildReply id r.2) .nothing :=
  answered_moves m.1 (m.2.trans executing)

theorem execute_moves (s : State) (k : Command) (id : RequestId) (params : List Chr)
    (free : (s.pool.descriptor 0).refs = 0) : Moves s .nothing (s.execute k id params) .nothing := by
  unfold State.execute
  extract_lets agent u answered
  refine (Move.execute s _ id free).one.trans (t := u) ?_
  have executing : u.agent.executing = some id := rfl
  clear_value u
  have run : ∀ {r : State × Answer}, CommandMoves u r → Moves u .nothing (answered r) .nothing := fun m =>
    m.answered executing
  have reply : ∀ a : Answer, Moves u .nothing (u.buildReply id a) .nothing := fun a => run (.same u a)
  cases k with
  | status => exact (reply _).trans (agent_moves _ _ _ rfl rfl rfl)
  | forwarding => exact run (doForwarding_moves u _)
  | portRead => exact run (doPortRead_moves u _)
  | portFormat => exact run (doPortFormat_moves u _)
  | portControl => exact run (doPortControl_moves u _ _)
  | countersClear => exact run (doCountersClear_moves u _)
  | routeWrite => exact run (doRouteWrite_moves u _)
  | routeDelete => exact run (doRouteDelete_moves u _ _)
  | routeRead => exact run (doRouteRead_moves u _ _ _)
  | routeList => exact run (doRouteList_moves u _ _ _)
  | tableCommit =>
    dsimp only
    split
    · exact reply _
    · have started := routes_moves u .nothing { u.routes with shadow := .validating, validatePos := 0 }
        fun h => h.withShadow _ _ nofun
      exact .ite (fun _ => started.trans (commitSwap_moves _ _)) fun _ => started
  | tableDiscard =>
    exact .ite (fun _ => reply _) fun _ =>
      (routes_moves u .nothing u.routes.startReseed fun h => h.startReseed).trans (endReseed_moves _ _)
  | routeRearm => exact run (doRouteRearm_moves u _ _)
  | exchangeList => exact run (doExchangeList_moves u)
  | noticeRead => exact run (doNoticeRead_moves u _)
  | settingsWrite => exact run (doSettingsWrite_moves u _)
  | settingsRead => exact reply _
  | restart =>
    dsimp only
    split
    · exact (reply _).trans (agent_moves _ _ _ rfl rfl rfl)
    · exact (reply _).trans (agent_moves _ _ _ rfl rfl rfl)
    · exact reply _

theorem dispatch_moves (s : State) (id : RequestId) (params : List Chr) (free : (s.pool.descriptor 0).refs = 0) :
    Moves s .nothing (s.dispatch id params) .nothing := by
  have reply : ∀ a : Answer, Moves s .nothing (s.buildReply id a) .nothing := fun a =>
    buildReply_moves s _ id a (.inr free)
  unfold State.dispatch
  split
  · exact reply _
  · exact .ite (fun _ => execute_moves s _ id params free) fun _ => reply _

theorem takeRequest_moves (s : State) (id : RequestId) (params : List Chr) :
    Moves s .nothing (s.takeRequest id params) .nothing := by
  unfold State.takeRequest
  split
  · exact post_moves _ _ _ _ _ _
  · next busy =>
    have idle : s.agentBusy = false := by simpa using busy
    have free : (s.pool.descriptor 0).refs = 0 := by
      simp only [State.agentBusy, Bool.or_eq_false_iff, decide_eq_false_iff_not, not_not] at idle
      exact idle.1
    exact .ite (fun _ => queueReply_moves s _ idle) fun _ => dispatch_moves s id params free

theorem takeHanded_moves (s : State) : Moves s .nothing s.takeHanded .nothing := by
  unfold State.takeHanded
  split
  · exact .refl s _
  · next d rest handed =>
    extract_lets cs agent taken
    have taking : Moves s .nothing taken .nothing :=
      (Move.takeRequest s [] [] none d rest handed).one.trans (Move.giveUp _ [] [] none d).one
    clear_value taken
    split
    · exact taking.trans (post_moves _ _ _ _ _ _)
    · exact taking.trans (takeRequest_moves _ _ _)

theorem serveTrunk_moves (s : State) : Moves s .nothing s.serveTrunk .nothing :=
  (Moves.foldl (fun t _ => takeCompletion_moves t _ .trunk) _ s).trans (Moves.foldl (fun t _ => takeHanded_moves t) _ _)

/-! ### The events -/

/-- A command has a next state, which a chain of moves reaches. -/
def Reaches (s : State) (o : Host.Outcome State Fault Refusal) : Prop :=
  ∃ t, o = .next t ∧ Moves s .nothing t .nothing

theorem Reaches.next {s t : State} (m : Moves s .nothing t .nothing) : Reaches s (.next t) := ⟨t, rfl, m⟩

theorem Reaches.stay (s : State) : Reaches s (.next s) := .next (.refl s _)

theorem execColdReset_reaches (maddr : BitVec 4) (tbaud : BitVec 2) (s : State) :
    Reaches s (execColdReset maddr tbaud s) := .next (Move.cold s maddr tbaud).one

theorem execCharacterReport_reaches (p : Port) (value : Chr) (marker parityBit : Bool) (error : Option CharError)
    (s : State) : Reaches s (execCharacterReport p value marker parityBit error s) :=
  .next ((afterReport_moves s _ p _ _).trans (receiveCharacter_moves _ p _ _))

theorem execEchoMissing_reaches (p : Port) (s : State) : Reaches s (execEchoMissing p s) := by
  unfold execEchoMissing
  split
  · next e pos onLine =>
    split
    · obtain ⟨_, ⟨rest, queue⟩, _⟩ := onLine_some onLine
      refine .next ((characterEnded_moves s _ p 0).trans (collide_moves _ p (rest := rest) ?_))
      rw [State.scheduler_def, State.onPort_port]
      exact queue
    · exact .stay s
  · exact .stay s

theorem execEndGap_reaches (p : Port) (s : State) : Reaches s (execEndGap p s) := by
  unfold execEndGap
  split
  · exact .next (.ite (fun _ => (reachEndGap_moves s _ p).trans (serveTrunk_moves _)) fun _ => reachEndGap_moves s _ p)
  · exact .stay s

theorem execCountReport_reaches (bank : BankId) (p : Port) (address : Chr) (s : State) :
    Reaches s (execCountReport bank p address s) := by
  have taken := routes_moves s .nothing { s.routes with countReports := s.routes.countReports.erase ⟨bank, p, address⟩ }
    fun h => h
  exact .next (.ite (fun _ => taken.trans (takeCount_moves _ _ p address)) fun _ => taken)

/-- A quiet line reads mark. -/
theorem PortState.quiet_mark {x : PortState} (h : x.quiet = true) : x.rxPin = .mark := by
  unfold PortState.quiet at h
  simp only [Bool.and_eq_true, decide_eq_true_eq] at h
  exact h.1.1

theorem execLineRelease_reaches (p : Port) (s : State) : Reaches s (execLineRelease p s) := by
  unfold execLineRelease
  dsimp only
  split
  · next c =>
    have released := onLine_moves s .nothing p
      (fun x => { x.spanReached (x.format.span x.format.guardGap) with monitor := .released }) (by rfl)
      fun _ space => absurd ((PortState.quiet_mark c.2).symm.trans space) (by decide)
    exact .next (.ite (fun _ => released.trans (decideHead_moves _ _ p)) fun _ => released)
  · exact .stay s

theorem execBackoffEnd_reaches (p : Port) (s : State) : Reaches s (execBackoffEnd p s) := by
  unfold execBackoffEnd
  dsimp only
  split
  · next c =>
    have released := onLine_moves s .nothing p
      (fun x => { x.spanReached (x.format.span x.scheduler.backoffGap) with
        monitor := if x.monitor = .busy then .released else x.monitor }) (by rfl)
      fun _ space => absurd ((PortState.quiet_mark c.2).symm.trans space) (by decide)
    exact .next (released.trans (startAttempt_moves _ _ p))
  · exact .stay s

theorem execAttemptCompletion_reaches (p : Port) (s : State) : Reaches s (execAttemptCompletion p s) := by
  unfold execAttemptCompletion
  split
  · next e pos onLine =>
    split
    · exact .next (completeAttempt_moves s p onLine)
    · exact .stay s
  · exact .stay s

theorem execDriverEnableRelease_reaches (p : Port) (s : State) : Reaches s (execDriverEnableRelease p s) := by
  unfold execDriverEnableRelease
  split
  · refine .next (lineReceiver_moves s .nothing p { (s.port p).characterEnded 0 with transmitter := .rest } _ (by rfl)
      (fun _ _ => PortState.characterEnded_seen _ 0) ?_ ?_)
    · cases (s.port p).receiver <;> rfl
    · intro off; rw [off]
  · exact .stay s

theorem execDeadlineExpiry_reaches (p : Port) (line : Chr) (s : State) : Reaches s (execDeadlineExpiry p line s) := by
  unfold execDeadlineExpiry
  split
  · split
    · exact .next (closeExchange_moves s _ _ _)
    · exact .stay s
  · exact .stay s

theorem execLingerExpiry_reaches (p : Port) (line : Chr) (s : State) : Reaches s (execLingerExpiry p line s) := by
  unfold execLingerExpiry
  split
  · split
    · exact .next (freeRecord_moves s _ p line)
    · exact .stay s
  · exact .stay s

theorem execSpaceHeld_reaches (p : Port) (s : State) : Reaches s (execSpaceHeld p s) := by
  unfold execSpaceHeld
  dsimp only
  split
  · exact .next (onLine_moves s .nothing p _ (by rfl) fun _ _ => by simp)
  · exact .stay s

theorem execStuckFault_reaches (p : Port) (s : State) : Reaches s (execStuckFault p s) := by
  unfold execStuckFault
  dsimp only
  split
  · exact .next ((onLine_moves s .nothing p (fun x => { x with spaceCount := max x.spaceCount x.format.stuckLimit })
      (by rfl) (by exact id)).trans (faultPort_moves _ [] [] p .stuck))
  · exact .stay s

theorem execTrunkBreak_reaches (s : State) : Reaches s (execTrunkBreak s) := by
  unfold execTrunkBreak
  split
  · refine .next (((onLine_moves s .nothing .trunk (fun x =>
      { x with spaceCount := max x.spaceCount s.agent.settings.breakLength, limitReached := false }) (by rfl)
      (by exact id)).trans ((Move.breakState _ .nothing .spent).one.trans (warmRestart_moves _))).trans
      (post_moves _ _ _ _ _ _))
  · exact .stay s

theorem execValidationStep_reaches (s : State) : Reaches s (execValidationStep s) := by
  unfold execValidationStep
  split
  · next validating =>
    have idle : s.routes.shadow ≠ .reseeding := by rw [validating]; decide
    split
    · exact .next (commitSwap_moves s _)
    · split
      · exact .next (commitConflict_moves s _ _ _)
      · have passed := routes_moves s .nothing { s.routes with validatePos := s.routes.validatePos + 1 }
          fun h => h.withShadow _ _ idle
        exact .next (.ite (fun _ => passed) fun _ => passed.trans (commitSwap_moves _ _))
  · exact .stay s

theorem execReseedCopy_reaches (s : State) : Reaches s (execReseedCopy s) := by
  unfold execReseedCopy
  split
  · next reseeding =>
    exact .next ((routes_moves s .nothing s.routes.copyNext fun h => h.copyNext reseeding).trans (endReseed_moves _ _))
  · exact .stay s

theorem execMarkToSpaceEdge_reaches (p : Port) (s : State) : Reaches s (execMarkToSpaceEdge p s) :=
  .next (onLine_moves s .nothing p _ (by rfl) fun _ _ => PortState.edge_seen _)

theorem execFalseStart_reaches (p : Port) (s : State) : Reaches s (execFalseStart p s) := by
  unfold execFalseStart
  split
  · exact .next ((readMark_moves s _ p).trans (onLine_moves _ .nothing p _ (by rfl) (by exact id)))
  · exact .stay s

/-- A management command is a request taken. -/
theorem request_reaches (s : State) (k : Command) (seq : Chr) (params : List Chr) : Reaches s (s.request k seq params) :=
  .next (takeRequest_moves s _ params)

/-- Every command has a next state, which a chain of moves reaches. -/
theorem exec_reaches (c : Instr) (s : State) : Reaches s (exec c s) := by
  cases c with
  | coldReset maddr tbaud => exact execColdReset_reaches maddr tbaud s
  | characterReport p value marker parityBit error => exact execCharacterReport_reaches p value marker parityBit error s
  | echoMissing p => exact execEchoMissing_reaches p s
  | endGap p => exact execEndGap_reaches p s
  | telegramCompletion p => exact .next (takeCompletion_moves s _ p)
  | countReport bank p address => exact execCountReport_reaches bank p address s
  | lineRelease p => exact execLineRelease_reaches p s
  | backoffEnd p => exact execBackoffEnd_reaches p s
  | attemptCompletion p => exact execAttemptCompletion_reaches p s
  | deadlineExpiry p line => exact execDeadlineExpiry_reaches p line s
  | lingerExpiry p line => exact execLingerExpiry_reaches p line s
  | spaceHeld p => exact execSpaceHeld_reaches p s
  | stuckFault p => exact execStuckFault_reaches p s
  | trunkBreak => exact execTrunkBreak_reaches s
  | validationStep => exact execValidationStep_reaches s
  | reseedCopy => exact execReseedCopy_reaches s
  | noticePost kind port address detail => exact .next (post_moves s _ kind port address detail)
  | mgmtRequest => exact .next (takeHanded_moves s)
  | status seq | forwarding seq _ | portRead seq _ | portFormat seq _ | enable seq _ | disable seq _ | recover seq _
  | purge seq _ | countersClear seq _ | routeWrite seq _ _ _ _ _ _ _ _ | routeDelete seq _ _ | routeRead seq _ _ _
  | routeList seq _ _ _ | tableCommit seq | tableDiscard seq | routeRearm seq _ _ | exchangeList seq | noticeRead seq _
  | settingsWrite seq _ | settingsRead seq | restart seq _ => exact request_reaches s _ seq _
  | markToSpaceEdge p => exact execMarkToSpaceEdge_reaches p s
  | returnOfMark p => exact .next (readMark_moves s _ p)
  | falseStart p => exact execFalseStart_reaches p s
  | driverEnableRelease p => exact execDriverEnableRelease_reaches p s

/-! ### One tick -/

theorem tickPort_moves (s : State) (g : Held) (p : Port) : Moves s g (s.tickPort p) g := by
  have spans : ∀ x : PortState, x.tickSpans = { x.withLine x.tickSpans with transmitter := x.tickSpans.transmitter }
      ∧ x.tickSpans.rxPin = x.rxPin ∧ x.tickSpans.monitor = x.monitor := fun x => by
    unfold PortState.tickSpans
    split
    · split <;> exact ⟨rfl, rfl, rfl⟩
    · split <;> exact ⟨rfl, rfl, rfl⟩
  obtain ⟨same, pin, monitor⟩ := spans (s.port p)
  refine onLine_moves s g p _ ?_ fun seen => ?_
  · dsimp only
    rw [same]
    rfl
  · dsimp only
    rw [pin, monitor]
    exact seen

theorem rearmBreak_moves (s : State) (g : Held) : Moves s g s.rearmBreak g := by
  unfold State.rearmBreak
  split
  · exact (Move.breakState s g .armed).one
  · exact .refl s g

theorem boundaryPort_moves (s : State) (g : Held) (p : Port) : Moves s g (s.boundaryPort p) g := by
  unfold State.boundaryPort
  split
  · exact .refl s g
  · exact onLine_moves s g p _ (by rfl) (by exact id)

theorem ExchangeMonitor.relabelled_millisecond (m : ExchangeMonitor) (n : Nat) :
    m.Relabelled { m with tickCount := n, records := m.records.map ExchangeRecord.millisecond } := by
  refine ⟨ExchangeRecord.millisecond, rfl, fun r => ?_⟩
  unfold ExchangeRecord.millisecond ExchangeRecord.isOpen
  cases state : r.state <;> cases r.lateHold <;> simp [state]

theorem tickBase_moves (s : State) (g : Held) : Moves s g s.tickBase g := by
  unfold State.tickBase
  refine .ite (fun _ => ?_) fun _ => ?_
  · exact (Move.relabelled s g _ (s.exchanges.relabelled_tickCount _)).one
  · exact (Move.relabelled s g _ (s.exchanges.relabelled_millisecond 0)).one.trans
      (Moves.foldl (fun t p => boundaryPort_moves t g p) Port.all _)

theorem tick_moves (s : State) (g : Held) : Moves s g s.tick g :=
  ((Moves.foldl (fun t p => tickPort_moves t g p) Port.all s).trans (rearmBreak_moves _ g)).trans (tickBase_moves _ g)

theorem idle_reaches (s : State) : Reaches s s.idle := by
  unfold State.idle
  split
  · exact exec_reaches _ s
  · exact .next (tick_moves s _)

end Sys2Proof.Machine
end

section
/-! PROOFS. The bounds and ranges that every step keeps: stored characters, notices, the trunk in service, counters,
monitors, records in range, route banks, ports that are down. Each is an invariant of the moves. -/

namespace Sys2Proof.Machine

/-! ### From moves to steps -/

/-- What every move keeps, whatever commands wait, every step keeps. -/
theorem step_invariant {I : State → Held → Prop} (keeps : ∀ {s g t h}, Move s g t h → I s g → I t h)
    (pending : ∀ {s g} (l : List Instr), I s g → I { s with pending := l } g) {s t : State} (h : step s = .next t)
    (i : I s .nothing) : I t .nothing := by
  have reached : ∀ {u : State} {o : Host.Outcome State Fault Refusal}, Reaches u o → o = .next t → I u .nothing →
      I t .nothing := fun ⟨_, e, moves⟩ e' j => by
    rw [e] at e'
    cases e'
    exact moves.invariant keeps j
  unfold step at h
  split at h
  · exact reached (exec_reaches _ _) h (pending _ i)
  · exact reached (idle_reaches s) h i

/-- A fact about every port, after a change of one port. -/
theorem forall_setPort {P : PortState → Prop} {s : State} {p : Port} {x : PortState} (i : ∀ q, P (s.port q)) (h : P x) :
    ∀ q, P ((s.setPort p x).port q) := fun q => by
  by_cases e : q = p
  · rw [e, State.setPort_port]; exact h
  · rw [State.setPort_port_other _ _ e]; exact i q

/-- A depth that settles becomes the trunk's overlap depth (R153). -/
theorem settleDepth_cases (s : State) : s.settleDepth = s ∨ ∃ d, s.trunk.pendingDepth = some d
    ∧ s.exchanges.openCount .trunk ≤ d ∧ s.settleDepth = (s.withTrunk { s.trunk with pendingDepth := none }).setPort .trunk
      { s.port .trunk with format := { (s.port .trunk).format with overlap := d } } := by
  unfold State.settleDepth
  split
  · exact .inl rfl
  · next d pending =>
    split
    · next few => exact .inr ⟨d, pending, few, rfl⟩
    · exact .inl rfl

theorem settleDepth_pool (s : State) : s.settleDepth.pool = s.pool := by
  rcases settleDepth_cases s with e | ⟨d, _, _, e⟩ <;> rw [e]
  rfl

/-- The ports after a warm restart (R113, R126, R153). -/
theorem warmed_port (s : State) (p : Port) : s.warmed.port p =
    if p = .trunk then { (s.port p).warm with format := (s.port p).format.withDepth s.trunk.pendingDepth }
    else (s.port p).warm := by
  cases p <;> rfl

theorem warmed_forall {P : PortState → Prop} {s : State} (h : ∀ p, P (s.port p).warm)
    (trunk : P { (s.port .trunk).warm with format := (s.port .trunk).format.withDepth s.trunk.pendingDepth }) (p : Port) :
    P (s.warmed.port p) := by
  rw [warmed_port]
  split
  · next e => rw [e]; exact trunk
  · exact h p

theorem cold_forall {P : PortState → Prop} {a : BitVec 4} {b : BitVec 2} {pins : PerPort Level} {cells : List Host.Cell}
    {l : List Instr} (trunk : ∀ x, P (coldTrunk b x)) (branch : ∀ x, P (coldBranch x)) (p : Port) :
    P ((State.cold a b pins cells l).port p) := by
  cases p with
  | trunk => exact trunk _
  | b1 | b2 | b3 | b4 => exact branch _

/-! ### Stored characters and notices -/

theorem Pool.openTelegram_spec {q q' : Pool} {p : Port} {a : Chr} {x : Option Damage} {d : DescNo} {b : Bool}
    (h : q.openTelegram p a x = some (d, b, q')) : q.freeDescriptor? = some d := by
  unfold Pool.openTelegram at h
  split at h
  · cases h
  · next found =>
    split at h <;> (cases h; exact found)

theorem Move.cellsCanonical {s t : State} {g h : Held} (m : Move s g t h) (i : CellsCanonical s) : CellsCanonical t := by
  unfold CellsCanonical at *
  cases m
  case openTelegram taken => exact Pool.openTelegram_wf taken i
  case storeBody => exact Pool.storeBody_wf _ _ _ i
  case fillStandIn cell => exact Pool.fillStandIn_wf _ _ _ _ _ _ (by rw [Pool.takeCell_cells cell]; exact i)
  case giveUp => rw [Pool.giveUp_cells]; exact i
  case dropRef => rw [Pool.dropRef_cells]; exact i
  case reply => exact Pool.writeReply_wf s.pool s.mgmtAddress _ i
  case thinned => rw [settleDepth_pool]; exact i
  all_goals exact i

theorem Move.noticesBounded {s t : State} {g h : Held} (m : Move s g t h) (i : NoticesBounded s) : NoticesBounded t := by
  unfold NoticesBounded at *
  cases m
  case notices bounded => exact bounded i
  case thinned =>
    unfold State.settleDepth
    split
    · exact i
    · split <;> exact i
  case cold => exact Nat.zero_le _
  all_goals exact i

/-! ### The trunk in service -/

theorem TrunkInService.setPort {s : State} (i : TrunkInService s) {p : Port} {x : PortState}
    (kept : p = .trunk → x.admin = (s.port .trunk).admin ∧ x.format = (s.port .trunk).format) :
    TrunkInService (s.setPort p x) := by
  obtain ⟨active, ok, pending⟩ := i
  by_cases e : p = .trunk
  · obtain ⟨admin, format⟩ := kept e
    subst e
    refine ⟨?_, ?_, pending⟩ <;> rw [State.setPort_port]
    · exact admin ▸ active
    · exact format ▸ ok
  · refine ⟨?_, ?_, pending⟩ <;> rw [State.setPort_port_other _ _ (Ne.symm e)]
    · exact active
    · exact ok

theorem TrunkInService.settleDepth {s : State} (i : TrunkInService s) : TrunkInService s.settleDepth := by
  rcases settleDepth_cases s with e | ⟨d, _, _, e⟩ <;> rw [e]
  · exact i
  · obtain ⟨active, ok, pending⟩ := i
    exact ⟨active, ok, pending⟩

theorem Move.trunkInService {s t : State} {g h : Held} (m : Move s g t h) (i : TrunkInService s) : TrunkInService t := by
  cases m
  case line p x same _ => exact i.setPort fun e => by rw [same]; subst e; exact ⟨rfl, rfl⟩
  case thinned => exact TrunkInService.settleDepth i
  case down branch _ _ => exact i.setPort fun e => absurd e (isBranch_iff.mp branch)
  case disabled down => exact i.setPort fun e => absurd (e ▸ i.1) (e ▸ down)
  case activate branch _ => exact i.setPort fun e => absurd e (isBranch_iff.mp branch)
  case format branch _ _ => exact i.setPort fun e => absurd e (isBranch_iff.mp branch)
  case pendingFormat fits => exact ⟨i.1, i.2.1, fun f e => by cases e; exact fits⟩
  case install f waits =>
    refine ⟨i.1, ?_, nofun⟩
    have ok := i.2.2 f waits
    change FormatRecord.trunkOk (if _ then _ else f) = true
    split
    · exact ok
    · exact ok
  case warm => exact ⟨i.1, i.2.1, nofun⟩
  case cold => exact ⟨rfl, rfl, nofun⟩
  all_goals first | exact i | exact i.setPort fun e => e ▸ ⟨rfl, rfl⟩

/-! ### Counters and monitors -/

theorem PortState.warm_bounded {x : PortState} (h : x.counters.Bounded) : x.warm.counters.Bounded := by
  unfold PortState.warm
  dsimp only
  split
  · exact h.addRxDiscarded
  · exact h.addRxDiscarded
  all_goals exact h

/-- Every port's counters, as one fact about each port. -/
abbrev State.CountersIn (s : State) : Prop := ∀ p, (s.port p).counters.Bounded

theorem Move.countersBounded {s t : State} {g h : Held} (m : Move s g t h) (i : s.CountersIn) : t.CountersIn := by
  have zero : zeroCounters.Bounded := by unfold Counters.Bounded; decide
  have set : ∀ {u : State} {p : Port} {x : PortState}, u.CountersIn → x.counters.Bounded → (u.setPort p x).CountersIn :=
    fun j k => forall_setPort (P := fun x => x.counters.Bounded) j k
  cases m
  case line p x same _ => exact set i (by rw [same]; exact i p)
  case counters p c bounded => exact set i (bounded (i p))
  case thinned m _ =>
    rcases settleDepth_cases (s.withTable m) with e | ⟨d, _, _, e⟩ <;> rw [e]
    · exact i
    · exact set (u := (s.withTable m).withTrunk { s.trunk with pendingDepth := none }) i (i .trunk)
  case install f _ => exact set (u := s.withTrunk _) i (i .trunk)
  case warm => exact warmed_forall (P := fun x => x.counters.Bounded) (fun p => (s.port p).warm_bounded (i p)) ((s.port .trunk).warm_bounded (i .trunk))
  case cold => exact cold_forall (P := fun x => x.counters.Bounded) (fun _ => zero) fun _ => zero
  all_goals first | exact i | exact set i (i _)

/-- A port whose monitor has seen its space (R127). -/
abbrev PortState.Seen (x : PortState) : Prop := x.rxPin = .space → x.monitor ≠ .released

theorem Move.spaceIsSeen {s t : State} {g h : Held} (m : Move s g t h) (i : SpaceIsSeen s) : SpaceIsSeen t := by
  have set : ∀ {u : State} {p : Port} {x : PortState}, SpaceIsSeen u → x.Seen → SpaceIsSeen (u.setPort p x) :=
    fun j k => forall_setPort (P := PortState.Seen) j k
  cases m
  case line p x _ seen => exact set i (seen (i p))
  case thinned m _ =>
    rcases settleDepth_cases (s.withTable m) with e | ⟨d, _, _, e⟩ <;> rw [e]
    · exact i
    · exact set (u := (s.withTable m).withTrunk { s.trunk with pendingDepth := none }) i (i .trunk)
  case install f _ => exact set (u := s.withTrunk _) i (i .trunk)
  case warm => exact warmed_forall (P := PortState.Seen) (fun p => i p) (i .trunk)
  case cold => exact cold_forall (P := PortState.Seen) (fun _ _ => LineMonitor.noConfusion) fun _ _ => LineMonitor.noConfusion
  all_goals first | exact i | exact set i (i _)

/-- Settles O55: each bound is an invariant of the moves. -/
theorem stepKeepsBounds : Obligations.StepKeepsBounds :=
  ⟨fun _ _ h =>
      ⟨step_invariant (I := fun s _ => CellsCanonical s) Move.cellsCanonical (fun _ i => i) h,
        step_invariant (I := fun s _ => NoticesBounded s) Move.noticesBounded (fun _ i => i) h⟩,
    fun _ _ h =>
      ⟨step_invariant (I := fun s _ => TrunkInService s) Move.trunkInService (fun _ i => i) h,
        step_invariant (I := fun s _ => s.CountersIn) Move.countersBounded (fun _ i => i) h⟩,
    fun _ _ h => step_invariant (I := fun s _ => SpaceIsSeen s) Move.spaceIsSeen (fun _ i => i) h⟩

end Sys2Proof.Machine
end

section
/-! PROOFS. Records in range, silent ports, sound exchange tables, overlap depths and route banks through every step; and
that every command completes. -/

namespace Sys2Proof.Machine

/-! ### Waiting commands (section 00) -/

theorem Move.pending {s t : State} {g h : Held} (m : Move s g t h) : t.pending = s.pending := by
  cases m
  case thinned m _ => rcases settleDepth_cases (s.withTable m) with e | ⟨d, _, _, e⟩ <;> rw [e]; rfl
  all_goals rfl

/-- Settles O2: every command reaches its next state by moves, and no move touches the waiting commands. -/
theorem everyCommandCompletes : Obligations.EveryCommandCompletes := by
  intro c s
  obtain ⟨t, next, moves⟩ := exec_reaches c s
  exact ⟨t, next, moves.invariant (I := fun u _ => u.pending = s.pending) (fun m i => m.pending.trans i) rfl⟩

/-! ### Records in range -/

theorem inRanges_overlap (f : FormatRecord) (d : Nat) (h : 1 ≤ d ∧ d ≤ 4) (ranges : f.inRanges = true) :
    ({ f with overlap := d } : FormatRecord).inRanges = true := by
  unfold FormatRecord.inRanges inRange at *
  simp only [Bool.and_eq_true, decide_eq_true_eq] at ranges ⊢
  grind

theorem overlap_inRange {f : FormatRecord} (h : f.inRanges = true) : 1 ≤ f.overlap ∧ f.overlap ≤ 4 := by
  unfold FormatRecord.inRanges inRange at h
  simp only [Bool.and_eq_true, decide_eq_true_eq] at h
  grind

theorem preset_inRanges (b : BitVec 2) : (defaultFormat (preset b)).inRanges = true := by
  revert b
  decide

theorem defaultSettings_inRanges : defaultSettings.inRanges = true := by decide

/-- A pending format installed: its overlap depth is taken, or waits while more records target T than it allows (R153). -/
theorem formatInstalled_cases (s : State) (f : FormatRecord) :
    (s.exchanges.openCount .trunk ≤ f.overlap ∧ s.formatInstalled f =
      (s.withTrunk { s.trunk with pendingFormat := none, pendingDepth := none }).setPort .trunk
        { s.port .trunk with format := f })
    ∨ (f.overlap < s.exchanges.openCount .trunk ∧ s.formatInstalled f =
      (s.withTrunk { s.trunk with pendingFormat := none, pendingDepth := some f.overlap }).setPort .trunk
        { s.port .trunk with format := { f with overlap := (s.port .trunk).format.overlap } }) := by
  unfold State.formatInstalled
  rcases Nat.lt_or_ge f.overlap (s.exchanges.openCount .trunk) with few | many
  · right
    simp only [few, decide_true, if_true, true_and]
    rfl
  · left
    simp only [many, Nat.not_lt.mpr many, decide_false, Bool.false_eq_true, if_false, true_and]
    rfl

/-- What is absent has every property. -/
theorem of_absent {α : Type} {P : α → Prop} (x : α) (h : none = some x) : P x := nomatch h

theorem RecordsInRange.withTrunk {s : State} (i : RecordsInRange s) {x : TrunkState}
    (pending : ∀ f, x.pendingFormat = some f → f.inRanges = true) (depth : ∀ d, x.pendingDepth = some d → 1 ≤ d ∧ d ≤ 4) :
    RecordsInRange (s.withTrunk x) := ⟨i.1, pending, depth, i.2.2.2⟩

theorem RecordsInRange.setPort {s : State} (i : RecordsInRange s) {p : Port} {x : PortState}
    (h : x.format.inRanges = true) : RecordsInRange (s.setPort p x) :=
  ⟨forall_setPort (P := fun x => x.format.inRanges = true) i.1 h, i.2⟩

theorem Move.recordsInRange {s t : State} {g h : Held} (m : Move s g t h) (i : RecordsInRange s) : RecordsInRange t := by
  have ⟨formats, pending, depth, settings⟩ := i
  cases m
  case line p x same _ => exact i.setPort (by rw [same]; exact formats p)
  case thinned m _ =>
    rcases settleDepth_cases (s.withTable m) with e | ⟨d, waits, _, e⟩ <;> rw [e]
    · exact i
    · refine RecordsInRange.setPort (RecordsInRange.withTrunk (s := s.withTable m)
        (x := { s.trunk with pendingDepth := none }) i pending of_absent) ?_
      exact inRanges_overlap _ d (depth d waits) (formats .trunk)
  case format ranges => exact i.setPort ranges
  case pendingFormat ranges _ => exact ⟨formats, fun f e => by cases e; exact ranges, depth, settings⟩
  case install f waits =>
    have ranges := pending f waits
    rcases formatInstalled_cases s f with ⟨_, e⟩ | ⟨_, e⟩ <;> rw [e]
    · refine (i.withTrunk of_absent of_absent).setPort ?_
      exact ranges
    · refine (i.withTrunk of_absent fun d (e : some f.overlap = some d) => ?_).setPort ?_
      · cases e; exact overlap_inRange ranges
      · exact inRanges_overlap f _ (overlap_inRange (formats .trunk)) ranges
  case agent ranges => exact ⟨formats, pending, depth, ranges settings⟩
  case warm =>
    refine ⟨warmed_forall (P := fun x => x.format.inRanges = true) formats ?_, nofun, nofun, settings⟩
    unfold FormatRecord.withDepth
    cases waits : s.trunk.pendingDepth with
    | none => exact formats .trunk
    | some d => exact inRanges_overlap _ d (depth d waits) (formats .trunk)
  case cold =>
    exact ⟨cold_forall (P := fun x => x.format.inRanges = true) (fun _ => preset_inRanges _) fun _ => preset_inRanges 0,
      of_absent, of_absent, defaultSettings_inRanges⟩
  all_goals first | exact i | exact i.setPort (formats _)

/-- Settles O56: the ranges are an invariant of the moves. -/
theorem stepKeepsRecordsInRange : Obligations.StepKeepsRecordsInRange := fun _ _ h =>
  step_invariant (I := fun s _ => RecordsInRange s) Move.recordsInRange (fun _ i => i) h

/-! ### Route banks -/

theorem Move.banksSound {s t : State} {g h : Held} (m : Move s g t h) (i : BanksSound s) : BanksSound t := by
  cases m
  case thinned m _ =>
    rcases settleDepth_cases (s.withTable m) with e | ⟨d, _, _, e⟩ <;> rw [e] <;> exact i
  case routes sound => exact sound i
  case warm =>
    refine ⟨i.1, i.2.1, fun reseeding => ?_⟩
    change s.routes.shadow.afterWarm = .reseeding at reseeding
    cases shadow : s.routes.shadow <;> rw [shadow] at reseeding <;> cases reseeding
  case cold => exact ⟨.nil, .nil, nofun⟩
  all_goals exact i

/-- Settles O59: the Route Table Unit's changes keep its banks sound, and every other move leaves them. -/
theorem stepKeepsBanksSound : Obligations.StepKeepsBanksSound := fun _ _ h =>
  step_invariant (I := fun s _ => BanksSound s) Move.banksSound (fun _ i => i) h

/-! ### Ports that are down -/

/-- A port holds nothing of its own. -/
def PortState.Quieted (x : PortState) : Prop :=
  x.scheduler.queue = [] ∧ x.scheduler.phase = .empty ∧ x.receiver = .off

/-- No open record of `m` targets `p`. -/
def ExchangeMonitor.Clear (m : ExchangeMonitor) (p : Port) : Prop := ∀ r ∈ m.records, r.target = p → r.isOpen = false

theorem ExchangeMonitor.Clear.of_empty {m : ExchangeMonitor} (h : m.records = []) (p : Port) : m.Clear p := fun _ hr =>
  absurd (h ▸ hr) List.not_mem_nil

theorem State.silent_iff (s : State) (p : Port) : s.Silent p ↔ (s.port p).Quieted ∧ s.exchanges.Clear p :=
  ⟨fun ⟨a, b, c, d⟩ => ⟨⟨a, b, c⟩, d⟩, fun ⟨⟨a, b, c⟩, d⟩ => ⟨a, b, c, d⟩⟩

/-- The trunk is ACTIVE, and a port that is not, but for one whose loss is going on, is silent. -/
def DownSilent (s : State) (g : Held) : Prop :=
  (s.port .trunk).admin = .active
    ∧ ∀ p, g.lost ≠ some p → (s.port p).admin ≠ .active → (s.port p).Quieted ∧ s.exchanges.Clear p

theorem downSilent_iff (s : State) : DownSilent s .nothing ↔ DownPortsSilent s :=
  and_congr_right fun _ => forall_congr' fun p =>
    ⟨fun h down => (s.silent_iff p).mpr (h nofun down), fun h _ down => (s.silent_iff p).mp (h down)⟩

section
variable {s : State} {g : Held} (i : DownSilent s g)
include i

/-- A change of a port that keeps its state of service, and keeps it quiet where it is down. -/
theorem DownSilent.setPort {p : Port} {x : PortState} (admin : x.admin = (s.port p).admin)
    (quiet : g.lost ≠ some p → x.admin ≠ .active → (s.port p).Quieted → x.Quieted) : DownSilent (s.setPort p x) g := by
  refine ⟨?_, fun q lost down => ?_⟩
  · by_cases e : p = .trunk
    · subst e; rw [State.setPort_port, admin]; exact i.1
    · rw [State.setPort_port_other _ _ (Ne.symm e)]; exact i.1
  · by_cases e : q = p
    · subst e
      rw [State.setPort_port] at down ⊢
      have k := i.2 q lost (admin ▸ down)
      exact ⟨quiet lost down k.1, k.2⟩
    · rw [State.setPort_port_other _ _ e] at down ⊢
      exact i.2 q lost down

/-- A change of the exchange table that leaves every clear port of a branch that is down clear. -/
theorem DownSilent.withTable {m : ExchangeMonitor}
    (clear : ∀ p, g.lost ≠ some p → (s.port p).admin ≠ .active → s.exchanges.Clear p → m.Clear p) :
    DownSilent (s.withTable m) g :=
  ⟨i.1, fun p lost down => ⟨(i.2 p lost down).1, clear p lost down (i.2 p lost down).2⟩⟩

theorem DownSilent.active_of {p : Port} (lost : g.lost ≠ some p) (busy : ¬(s.port p).Quieted) :
    (s.port p).admin = .active := by
  by_contra down
  exact busy (i.2 p lost down).1

theorem DownSilent.settleDepth : DownSilent s.settleDepth g := by
  rcases settleDepth_cases s with e | ⟨d, _, _, e⟩ <;> rw [e]
  · exact i
  · exact DownSilent.setPort (s := s.withTrunk { s.trunk with pendingDepth := none }) i rfl fun _ _ h => h

end

theorem ExchangeMonitor.Thinned.clear {m n : ExchangeMonitor} (h : m.Thinned n) {p : Port} (c : m.Clear p) : n.Clear p := by
  obtain ⟨keep, f, records, spec⟩ := h
  intro r hr target
  rw [records] at hr
  obtain ⟨x, hx, rfl⟩ := List.mem_map.mp hr
  obtain ⟨t, _, isOpen⟩ := spec x
  have closed := c x (List.mem_filter.mp hx).1 (t ▸ target)
  by_contra opened
  rw [isOpen (by simpa using opened)] at closed
  cases closed

theorem ExchangeMonitor.Relabelled.thinned {m n : ExchangeMonitor} (h : m.Relabelled n) : m.Thinned n := by
  obtain ⟨f, records, spec⟩ := h
  refine ⟨fun _ => true, f, by rw [List.filter_true]; exact records, fun r => ?_⟩
  obtain ⟨target, line, isOpen⟩ := spec r
  exact ⟨target, line, fun k => isOpen ▸ k⟩

theorem ExchangeMonitor.change_other_clear {m : ExchangeMonitor} {p q : Port} {a : Chr} {f : ExchangeRecord → ExchangeRecord}
    (target : ∀ r, (f r).target = r.target) (other : q ≠ p) (c : m.Clear q) : (m.change p a f).Clear q := by
  intro r hr aimed
  obtain ⟨x, hx, rfl⟩ := List.mem_map.mp hr
  split at aimed
  · next on =>
    have : x.target = p := ((x.onPair_iff p a).mp on).1
    rw [target, this] at aimed
    exact absurd aimed.symm other
  · next off => rw [if_neg off]; exact c x hx aimed

/-- The SENDING record a report names. -/
theorem ExchangeMonitor.sendingRecord_some {m : ExchangeMonitor} {p : Port} {d : DescNo} {r : ExchangeRecord}
    (h : m.sendingRecord p d = some r) : r ∈ m.records ∧ r.target = p ∧ r.state = .sending := by
  unfold ExchangeMonitor.sendingRecord at h
  have found := List.find?_some h
  have k := of_decide_eq_true found
  exact ⟨List.mem_of_find?_eq_some h, k.1, k.2.1⟩

theorem passes_active {s : State} {p : Port} {line : Chr} {wide : Bool} (h : s.filter p line wide = none) :
    (s.port p).admin = .active := by
  by_contra down
  unfold State.filter at h
  rw [if_pos down] at h
  cases h

theorem DownSilent.join {s : State} {g : Held} (i : DownSilent s g) {p : Port} {e : QueueEntry}
    (active : (s.port p).admin = .active) : DownSilent (s.join p e) g :=
  DownSilent.setPort (s := s.withPool (s.pool.addRef e.desc)) i rfl fun _ down _ => absurd active down

theorem PortState.warm_quieted {x : PortState} (down : x.admin ≠ .active) : x.warm.Quieted :=
  ⟨rfl, rfl, if_neg down⟩

theorem Move.downSilent {s t : State} {g h : Held} (m : Move s g t h) (i : DownSilent s g) : DownSilent t h := by
  have ⟨trunk, silent⟩ := i
  cases m
  case line p x same _ =>
    refine i.setPort (by rw [same]; rfl) fun _ _ k => ?_
    rw [same]
    exact k
  case receiver off => exact i.setPort rfl fun _ _ ⟨a, b, c⟩ => ⟨a, b, off c⟩
  case close isOpen => exact i.setPort rfl fun _ _ ⟨_, _, off⟩ => by rw [off] at isOpen; cases isOpen
  case letGo held => exact i.setPort rfl fun _ _ ⟨_, _, off⟩ => by rw [off] at held; cases held
  case openTelegram p _ _ d b q idle _ =>
    exact DownSilent.setPort (s := s.withPool q) i rfl fun _ _ ⟨_, _, off⟩ => by
      cases off.symm.trans idle
  case scheduler queue phase =>
    refine i.setPort rfl fun _ _ ⟨empty, idle, off⟩ => ⟨queue.trans empty, ?_, off⟩
    obtain k | k | k := phase
    · exact k.trans idle
    · exact k
    · exact absurd (queue.trans empty) k
  case start queue _ => exact i.setPort rfl fun _ _ k => absurd k.1 queue
  case join passes _ => exact i.join (passes_active passes)
  case reply => exact DownSilent.join (s := s.replyWritten _ _) i trunk
  case replay => exact i.join trunk
  case leave p c es queue phase =>
    refine DownSilent.setPort (g := ⟨_, _, _⟩) i rfl fun _ _ ⟨empty, idle, off⟩ => ?_
    rw [State.scheduler_def, empty, List.perm_nil, List.append_eq_nil_iff] at queue
    refine ⟨queue.1, ?_, off⟩
    obtain k | k | k := phase
    · exact k.trans idle
    · exact k
    · exact absurd queue.1 k
  case opening p e q m active accepted =>
    refine i.withTable fun k _ down clear r hr target => ?_
    rcases ExchangeMonitor.mem_of_opening accepted hr with old | new
    · exact clear r old target
    · rw [new] at target
      exact absurd (target ▸ active) down
  case thinned records => exact DownSilent.settleDepth (i.withTable fun _ _ _ => records.clear)
  case relabelled records => exact i.withTable fun _ _ _ => records.thinned.clear
  case sent p d r sending =>
    obtain ⟨mem, target, sendingState⟩ := ExchangeMonitor.sendingRecord_some sending
    refine i.withTable fun k _ _ clear => ?_
    refine ExchangeMonitor.change_other_clear (fun _ => rfl) (fun e => ?_) clear
    have closed := clear r mem (target.trans e.symm)
    rw [ExchangeRecord.isOpen, sendingState] at closed
    cases closed
  case down p a branch _ _ =>
    refine ⟨?_, fun q lost down => ?_⟩
    · rw [State.setPort_port_other _ _ (Ne.symm (isBranch_iff.mp branch))]; exact trunk
    · have other : q ≠ p := fun e => lost (congrArg some e.symm)
      rw [State.setPort_port_other _ _ other] at down ⊢
      exact silent q nofun down
  case silenced p quiet =>
    refine ⟨trunk, fun q _ down => ?_⟩
    by_cases e : q = p
    · rw [e]; exact (s.silent_iff p).mp quiet
    · exact silent q (fun k => e (Option.some.inj k).symm) down
  case disabled p down =>
    have branch : p ≠ .trunk := fun e => down (e ▸ trunk)
    refine ⟨?_, fun q lost _ => ?_⟩
    · rw [State.setPort_port_other _ _ (Ne.symm branch)]; exact trunk
    · by_cases e : q = p
      · subst e
        rw [State.setPort_port]
        exact silent q lost down
      · next now =>
        rw [State.setPort_port_other _ _ e] at now ⊢
        exact silent q lost now
  case activate p branch _ =>
    refine ⟨?_, fun q lost down => ?_⟩
    · rw [State.activate, State.onPort_port_other _ _ (Ne.symm (isBranch_iff.mp branch))]; exact trunk
    · by_cases e : q = p
      · rw [e, State.activate, State.onPort_port] at down
        exact absurd rfl down
      · rw [State.activate, State.onPort_port_other _ _ e] at down ⊢
        exact silent q lost down
  case install f _ =>
    rcases formatInstalled_cases s f with ⟨_, e⟩ | ⟨_, e⟩ <;>
      (rw [e]; exact DownSilent.setPort (s := s.withTrunk _) i rfl fun _ _ k => k)
  case warm =>
    refine ⟨trunk, fun p _ => ?_⟩
    refine warmed_forall (P := fun x => x.admin ≠ .active → x.Quieted ∧ s.warmed.exchanges.Clear p)
      (fun q down => ⟨PortState.warm_quieted down, .of_empty rfl p⟩) (fun down => absurd trunk down) p
  case cold =>
    refine ⟨rfl, fun p _ => ?_⟩
    exact cold_forall (P := fun x => x.admin ≠ .active → x.Quieted ∧ ExchangeMonitor.Clear ⟨[], 0, 0⟩ p)
      (fun _ down => absurd rfl down) (fun _ _ => ⟨⟨rfl, rfl, rfl⟩, .of_empty rfl p⟩) p
  all_goals first | exact i | exact i.setPort rfl fun _ _ k => k

/-- Settles O58: only a loss takes a port down, and it is silent when its loss is complete. -/
theorem stepKeepsDownPortsSilent : Obligations.StepKeepsDownPortsSilent := fun s t h i =>
  (downSilent_iff t).mp (step_invariant (I := DownSilent) Move.downSilent (fun _ i => i) h ((downSilent_iff s).mpr i))

end Sys2Proof.Machine
end

section
/-! PROOFS. The exchange table through every step: at most 16 records, one on a pair, and the open ones of a port within
its overlap depth. -/

namespace Sys2Proof.Machine

/-! ### What an opening leaves (R52, R53) -/

/-- The records that an opening keeps are those it found, without closed ones; none is on the pair opened. -/
structure ExchangeMonitor.Kept (m : ExchangeMonitor) (p : Port) (a : Chr) (kept : List ExchangeRecord) : Prop where
  sublist : kept.Sublist m.records
  off : ∀ r ∈ kept, ¬(r.target = p ∧ r.line = a)
  room : m.records.length ≤ Config.exchangeCount → kept.length < Config.exchangeCount
  opens : ∀ q, (kept.filter fun r => decide (r.target = q) && r.isOpen).length = m.openCount q

/-- Closed records that leave do not change the number of open ones. -/
theorem filter_open_of_closed {rs : List ExchangeRecord} {gone : ExchangeRecord → Bool}
    (closed : ∀ r ∈ rs, gone r = true → r.isOpen = false) (q : Port) :
    (rs.filter fun r => !gone r).filter (fun r => decide (r.target = q) && r.isOpen)
      = rs.filter fun r => decide (r.target = q) && r.isOpen := by
  rw [List.filter_filter]
  refine List.filter_congr fun r hr => ?_
  cases g : gone r with
  | false => simp
  | true => simp [closed r hr g]

theorem ExchangeMonitor.mem_oldestLapsed {m : ExchangeMonitor} {r : ExchangeRecord} (h : m.oldestLapsed = some r) :
    r ∈ m.records ∧ r.isOpen = false := by
  have mem := (m.oldestFirst_perm _).mem_iff.mp (List.mem_of_head? h)
  obtain ⟨mem, closed⟩ := List.mem_filter.mp mem
  exact ⟨mem, by simpa using closed⟩

theorem ExchangeMonitor.opening_spec {m m' : ExchangeMonitor} {depth : Nat} {p : Port} {e : QueueEntry} {q : ExchangeRequest}
    (one : OnePerPair m.records) (h : m.opening depth p e q = some m') :
    m.openCount p < depth ∧ ∃ kept, m.Kept p e.line kept ∧ m'.records = kept ++ [m.opened p e q] := by
  unfold ExchangeMonitor.opening at h
  split at h
  · cases h
  · next noOpen =>
    split at h
    · cases h
    · next shallow =>
      have closed : ∀ r ∈ m.records, r.onPair p e.line = true → r.isOpen = false := fun r hr on => by
        have := List.any_eq_false.mp (Bool.not_eq_true _ ▸ noOpen) r hr
        simpa [on] using this
      have off : ∀ r ∈ (m.removePair p e.line).records, ¬(r.target = p ∧ r.line = e.line) := fun r hr on => by
        have := (List.mem_filter.mp hr).2
        rw [(r.onPair_iff p e.line).mpr on] at this
        cases this
      have sub : (m.removePair p e.line).records.Sublist m.records := List.filter_sublist
      refine ⟨Nat.not_le.mp shallow, ?_⟩
      dsimp only at h
      split at h
      · next room =>
        cases h
        exact ⟨_, ⟨sub, off, fun _ => room, fun k => congrArg _ (filter_open_of_closed closed k)⟩, rfl⟩
      · split at h
        · cases h
        · next old lapsed =>
          cases h
          obtain ⟨oldMem, oldClosed⟩ := ExchangeMonitor.mem_oldestLapsed lapsed
          have one' : OnePerPair (m.removePair p e.line).records := one.sublist sub
          have only : ∀ r ∈ (m.removePair p e.line).records, r.onPair old.target old.line = true → r.isOpen = false :=
            fun r hr on => by
              rw [onPair_eq one' oldMem hr, decide_eq_true_eq] at on
              rw [on]; exact oldClosed
          have sub' := (List.filter_sublist (p := fun r => !r.onPair old.target old.line)
            (l := (m.removePair p e.line).records))
          refine ⟨_, ⟨sub'.trans sub, fun r hr => off r (sub'.subset hr), fun bound => ?_, fun k => ?_⟩, rfl⟩
          · have fewer := (List.length_filter_lt_length_iff_exists (p := fun r => !r.onPair old.target old.line)).mpr
              ⟨old, oldMem, by simp [ExchangeRecord.onPair]⟩
            exact (fewer.trans_le sub.length_le).trans_le bound
          · exact congrArg _ ((filter_open_of_closed only k).trans (filter_open_of_closed closed k))

theorem onePerPair_append {rs : List ExchangeRecord} {x : ExchangeRecord} (one : OnePerPair rs)
    (off : ∀ r ∈ rs, ¬(r.target = x.target ∧ r.line = x.line)) : OnePerPair (rs ++ [x]) :=
  List.pairwise_append.mpr ⟨one, List.pairwise_singleton _ _, fun r hr y hy => by
    rw [List.mem_singleton.mp hy]; exact off r hr⟩

theorem onePerPair_map {rs : List ExchangeRecord} (one : OnePerPair rs) {f : ExchangeRecord → ExchangeRecord}
    (pair : ∀ r, (f r).target = r.target ∧ (f r).line = r.line) : OnePerPair (rs.map f) :=
  List.pairwise_map.mpr (one.imp fun {a b} k => by rw [(pair a).1, (pair a).2, (pair b).1, (pair b).2]; exact k)

/-! ### The table stays sound -/

/-- At most 16 records, at most one on a pair, of a table alone (R49). -/
def ExchangeMonitor.Sound (m : ExchangeMonitor) : Prop :=
  m.records.length ≤ Config.exchangeCount ∧ OnePerPair m.records

theorem ExchangeMonitor.Sound.opening {m m' : ExchangeMonitor} (i : m.Sound) {depth : Nat} {p : Port} {e : QueueEntry}
    {q : ExchangeRequest} (h : m.opening depth p e q = some m') : m'.Sound := by
  obtain ⟨_, kept, k, records⟩ := ExchangeMonitor.opening_spec i.2 h
  unfold ExchangeMonitor.Sound
  rw [records]
  have room := k.room i.1
  exact ⟨by rw [List.length_append, List.length_singleton]; omega, onePerPair_append (i.2.sublist k.sublist) k.off⟩

theorem ExchangeMonitor.Sound.thinned {m n : ExchangeMonitor} (i : m.Sound) (h : m.Thinned n) : n.Sound := by
  obtain ⟨keep, f, records, spec⟩ := h
  unfold ExchangeMonitor.Sound
  rw [records]
  exact ⟨(List.length_map (as := m.records.filter keep) f).le.trans ((List.length_filter_le _ _).trans i.1),
    onePerPair_map (i.2.sublist List.filter_sublist) fun r => ⟨(spec r).1, (spec r).2.1⟩⟩

theorem ExchangeMonitor.Sound.change {m : ExchangeMonitor} (i : m.Sound) (p : Port) (a : Chr)
    {f : ExchangeRecord → ExchangeRecord} (pair : ∀ r, (f r).target = r.target ∧ (f r).line = r.line) :
    (m.change p a f).Sound := by
  refine ⟨(List.length_map (as := m.records) _).le.trans i.1, onePerPair_map i.2 fun r => ?_⟩
  split
  · exact pair r
  · exact ⟨rfl, rfl⟩

theorem Move.exchangesSound {s t : State} {g h : Held} (m : Move s g t h) (i : s.exchanges.Sound) : t.exchanges.Sound := by
  cases m
  case opening accepted => exact i.opening accepted
  case thinned m records => rw [settleDepth_exchanges]; exact i.thinned records
  case relabelled records => exact i.thinned records.thinned
  case sent p d r _ => exact i.change p r.line fun _ => ⟨rfl, rfl⟩
  case warm => exact ⟨Nat.zero_le _, .nil⟩
  case cold => exact ⟨Nat.zero_le _, .nil⟩
  all_goals exact i

/-! ### The open records stay within the depth -/

theorem ExchangeMonitor.Thinned.openCount_le {m n : ExchangeMonitor} (h : m.Thinned n) (p : Port) :
    n.openCount p ≤ m.openCount p := by
  obtain ⟨keep, f, records, spec⟩ := h
  unfold ExchangeMonitor.openCount
  rw [records, List.filter_map, List.length_map]
  refine ((List.filter_sublist (p := keep)).filter _).length_le.trans ?_
  rw [← List.countP_eq_length_filter, ← List.countP_eq_length_filter]
  refine List.countP_mono_left fun r _ k => ?_
  obtain ⟨target, _, isOpen⟩ := spec r
  simp only [Function.comp, Bool.and_eq_true, decide_eq_true_eq, target] at k ⊢
  exact ⟨k.1, isOpen k.2⟩

theorem openCount_map {m n : ExchangeMonitor} {f : ExchangeRecord → ExchangeRecord} (records : n.records = m.records.map f)
    (spec : ∀ r ∈ m.records, (f r).target = r.target ∧ (f r).isOpen = r.isOpen) (p : Port) :
    n.openCount p = m.openCount p := by
  unfold ExchangeMonitor.openCount
  rw [records, List.filter_map, List.length_map]
  refine congrArg _ (List.filter_congr fun r hr => ?_)
  simp only [Function.comp, (spec r hr).1, (spec r hr).2]

theorem ExchangeMonitor.Relabelled.openCount {m n : ExchangeMonitor} (h : m.Relabelled n) (p : Port) :
    n.openCount p = m.openCount p := by
  obtain ⟨f, records, spec⟩ := h
  exact openCount_map records (fun r _ => ⟨(spec r).1, (spec r).2.2⟩) p

/-- A request that is sent was open and stays open (R55). -/
theorem sent_openCount {m : ExchangeMonitor} (i : m.Sound) {p : Port} {d : DescNo} {r : ExchangeRecord}
    (h : m.sendingRecord p d = some r) (q : Port) : (m.change p r.line ExchangeRecord.sent).openCount q = m.openCount q := by
  obtain ⟨mem, target, sending⟩ := ExchangeMonitor.sendingRecord_some h
  subst target
  rw [ExchangeMonitor.change_eq i.2 mem]
  refine openCount_map rfl (fun x _ => ?_) q
  split
  · next e => rw [e]; exact ⟨rfl, by rw [ExchangeRecord.isOpen, ExchangeRecord.isOpen, sending]; rfl⟩
  · exact ⟨rfl, rfl⟩

theorem opening_openCount {m m' : ExchangeMonitor} (i : m.Sound) {depth : Nat} {p : Port} {e : QueueEntry}
    {q : ExchangeRequest} (h : m.opening depth p e q = some m') (k : Port) :
    m'.openCount k = m.openCount k + if k = p then 1 else 0 := by
  obtain ⟨_, kept, spec, records⟩ := ExchangeMonitor.opening_spec i.2 h
  unfold ExchangeMonitor.openCount
  rw [records, List.filter_append, List.length_append, spec.opens]
  by_cases same : k = p
  · simp [ExchangeMonitor.opened, ExchangeRecord.isOpen, same, ExchangeMonitor.openCount]
  · simp [ExchangeMonitor.opened, ExchangeMonitor.openCount, same, Ne.symm same]

theorem openCount_of_clear {m : ExchangeMonitor} {p : Port} (h : m.Clear p) : m.openCount p = 0 := by
  unfold ExchangeMonitor.openCount
  rw [List.length_eq_zero_iff, List.filter_eq_nil_iff]
  intro r hr k
  rw [Bool.and_eq_true, decide_eq_true_eq] at k
  rw [h r hr k.1] at k
  cases k.2

theorem OverlapBounded.setPort {s : State} (i : OverlapBounded s) {p : Port} {x : PortState}
    (depth : s.exchanges.openCount p ≤ x.format.overlap) : OverlapBounded (s.setPort p x) := by
  refine ⟨fun q => ?_, i.2⟩
  by_cases e : q = p
  · rw [e, State.setPort_port]; exact depth
  · rw [State.setPort_port_other _ _ e]; exact i.1 q

theorem OverlapBounded.withTrunk {s : State} (i : OverlapBounded s) {x : TrunkState}
    (depth : ∀ d, x.pendingDepth = some d → d < s.exchanges.openCount .trunk) : OverlapBounded (s.withTrunk x) := ⟨i.1, depth⟩

/-- Records leave, and then a depth that waits settles or still waits below their number (R153). -/
theorem OverlapBounded.thinned {s : State} (i : OverlapBounded s) {m : ExchangeMonitor} (h : s.exchanges.Thinned m) :
    OverlapBounded (s.withTable m).settleDepth := by
  have fewer : ∀ p, m.openCount p ≤ (s.port p).format.overlap := fun p => (h.openCount_le p).trans (i.1 p)
  unfold State.settleDepth
  split
  · next none => exact ⟨fewer, fun d waits => of_absent (P := (· < m.openCount .trunk)) d (none.symm.trans waits)⟩
  · next d waits =>
    split
    · next few =>
      refine OverlapBounded.setPort (s := (s.withTable m).withTrunk { s.trunk with pendingDepth := none })
        ⟨fewer, of_absent⟩ few
    · next many => exact ⟨fewer, fun k waits' => Option.some.inj (waits.symm.trans waits') ▸ Nat.not_le.mp many⟩

/-- What O57 needs of a state between two moves. -/
def OverlapKept (s : State) (g : Held) : Prop := s.exchanges.Sound ∧ DownSilent s g ∧ OverlapBounded s

theorem Move.overlapBounded {s t : State} {g h : Held} (m : Move s g t h) (sound : s.exchanges.Sound) (silent : DownSilent s g)
    (i : OverlapBounded s) : OverlapBounded t := by
  cases m
  case line p x same _ => exact i.setPort (by rw [same]; exact i.1 p)
  case opening p e q m active accepted =>
    have counts := opening_openCount sound accepted
    have few := (ExchangeMonitor.opening_spec sound.2 accepted).1
    refine ⟨fun k => ?_, fun d waits => ?_⟩
    · change m.openCount k ≤ (s.port k).format.overlap
      rw [counts k]
      split
      · next same => rw [same]; exact few
      · exact i.1 k
    · change d < m.openCount .trunk
      rw [counts .trunk]
      exact (i.2 d waits).trans_le (Nat.le_add_right _ _)
  case thinned records => exact i.thinned records
  case relabelled m records =>
    exact ⟨fun p => (records.openCount p).trans_le (i.1 p), fun d waits => (i.2 d waits).trans_eq (records.openCount _).symm⟩
  case sent p d r sending =>
    have counts := sent_openCount sound sending
    exact ⟨fun k => (counts k).trans_le (i.1 k), fun d waits => (i.2 d waits).trans_eq (counts _).symm⟩
  case format p f branch down _ =>
    have clear := (silent.2 p nofun (by rw [down]; decide)).2
    exact i.setPort (by rw [openCount_of_clear clear]; exact Nat.zero_le _)
  case install f _ =>
    rcases formatInstalled_cases s f with ⟨few, e⟩ | ⟨many, e⟩ <;> rw [e]
    · exact OverlapBounded.setPort (s := s.withTrunk { s.trunk with pendingFormat := none, pendingDepth := none })
        ⟨i.1, of_absent⟩ few
    · refine OverlapBounded.setPort (s := s.withTrunk { s.trunk with pendingFormat := none, pendingDepth := some f.overlap })
        ⟨i.1, fun d waits => Option.some.inj waits ▸ many⟩ ?_
      exact i.1 .trunk
  case warm => exact ⟨fun _ => Nat.zero_le _, of_absent⟩
  case cold => exact ⟨fun _ => Nat.zero_le _, of_absent⟩
  all_goals first | exact i | exact i.setPort (i.1 _)

theorem Move.overlapKept {s t : State} {g h : Held} (m : Move s g t h) : OverlapKept s g → OverlapKept t h :=
  fun ⟨sound, silent, i⟩ => ⟨m.exchangesSound sound, m.downSilent silent, m.overlapBounded sound silent i⟩

/-- Settles O57: an opening is taken only below the depth, and a depth is lowered only to what the open records leave. -/
theorem stepKeepsExchangesSound : Obligations.StepKeepsExchangesSound :=
  ⟨fun _ _ h => step_invariant (I := fun s _ => s.exchanges.Sound) Move.exchangesSound (fun _ i => i) h,
    fun s _ h sound silent i =>
      (step_invariant (I := OverlapKept) Move.overlapKept (fun _ i => i) h ⟨sound, (downSilent_iff s).mpr silent, i⟩).2.2⟩

end Sys2Proof.Machine
end

section
/-! PROOFS. The storage pool's accounts: cells, and references by entry and by holder. `Pool.Accounts` says them for any
count of entries and holders, and each operation on the pool carries them to the counts it leaves. -/

namespace Sys2Proof.Machine

/-! ### The free list (R76) -/

theorem mem_insertCell {c x : CellNo} : ∀ {l : List CellNo}, x ∈ insertCell c l ↔ x = c ∨ x ∈ l
  | [] => by simp [insertCell]
  | y :: l => by
    unfold insertCell
    split
    · simp
    · split
      · next e => subst e; simp
      · rw [List.mem_cons, mem_insertCell, List.mem_cons]; tauto

theorem insertCell_perm {c : CellNo} : ∀ {l : List CellNo}, c ∉ l → (insertCell c l).Perm (c :: l)
  | [], _ => .refl _
  | y :: l, h => by
    rw [List.mem_cons, not_or] at h
    unfold insertCell
    split
    · exact .refl _
    · rw [if_neg h.1]
      exact ((insertCell_perm h.2).cons y).trans (.swap c y l)

theorem insertCell_sorted {c : CellNo} : ∀ {l : List CellNo}, l.Pairwise (· < ·) → (insertCell c l).Pairwise (· < ·)
  | [], _ => List.pairwise_singleton _ _
  | y :: l, h => by
    have ⟨low, sorted⟩ := List.pairwise_cons.mp h
    unfold insertCell
    split
    · next lt =>
      refine List.pairwise_cons.mpr ⟨fun z hz => ?_, h⟩
      rcases List.mem_cons.mp hz with e | k
      · exact e ▸ lt
      · exact lt.trans (low z k)
    · split
      · exact h
      · next ge ne =>
        refine List.pairwise_cons.mpr ⟨fun z hz => ?_, insertCell_sorted sorted⟩
        rcases mem_insertCell.mp hz with e | k
        · rw [e]; exact lt_of_le_of_ne (not_lt.mp ge) (Ne.symm ne)
        · exact low z k

/-- The cells returned by a descriptor, put back on the free list one by one (R76, R78). -/
def returnCells (cells free : List CellNo) : List CellNo := cells.foldl (fun free c => insertCell c free) free

theorem returnCells_sorted (cells : List CellNo) : ∀ {free : List CellNo}, free.Pairwise (· < ·) →
    (returnCells cells free).Pairwise (· < ·) := by
  induction cells with
  | nil => exact id
  | cons c cells ih => exact fun h => ih (insertCell_sorted h)

theorem returnCells_perm (cells : List CellNo) : ∀ {free : List CellNo}, (free ++ cells).Nodup →
    (returnCells cells free).Perm (free ++ cells) := by
  induction cells with
  | nil => exact fun {free} _ => by rw [List.append_nil]; exact .refl _
  | cons c cells ih =>
    intro free distinct
    have fresh : c ∉ free := fun h => (List.disjoint_of_nodup_append distinct) h List.mem_cons_self
    have put : (insertCell c free ++ cells).Perm (free ++ c :: cells) :=
      ((insertCell_perm fresh).append_right cells).trans List.perm_middle.symm
    exact (ih (put.nodup_iff.mpr distinct)).trans put

/-! ### Cells in descriptors -/

/-- The cells that the general descriptors hold (R76). -/
def Pool.owned (q : Pool) : List CellNo := generalDescriptors.flatMap fun d => (q.descriptor d).cells

theorem mem_generalDescriptors {d : DescNo} : d ∈ generalDescriptors ↔ d ≠ 0 := by revert d; decide

theorem generalDescriptors_nodup : generalDescriptors.Nodup := (List.nodup_finRange _).sublist (List.drop_sublist _ _)

theorem generalCells_nodup : generalCells.Nodup := (List.nodup_finRange _).sublist (List.drop_sublist _ _)

theorem generalCells_sorted : generalCells.Pairwise (· < ·) :=
  (List.pairwise_lt_finRange _).sublist (List.drop_sublist _ _)

/-- Where one descriptor's cells change, so do the cells owned, and no others. -/
theorem Pool.owned_change {q q' : Pool} {d : DescNo} (h : d ≠ 0) (others : ∀ k, k ≠ d → q'.descriptor k = q.descriptor k) :
    (q'.owned ++ (q.descriptor d).cells).Perm (q.owned ++ (q'.descriptor d).cells) := by
  obtain ⟨pre, post, parts⟩ := List.append_of_mem (mem_generalDescriptors.mpr h)
  have distinct := generalDescriptors_nodup
  rw [parts] at distinct
  have outside : ∀ l : List DescNo, d ∉ l →
      l.flatMap (fun k => (q'.descriptor k).cells) = l.flatMap fun k => (q.descriptor k).cells := fun l out =>
    List.flatMap_congr fun k hk => by rw [others k fun e => out (e ▸ hk)]
  have ⟨_, tail, apart⟩ := List.nodup_append.mp distinct
  unfold Pool.owned
  rw [parts, List.flatMap_append, List.flatMap_append, List.flatMap_cons, List.flatMap_cons,
    outside pre fun hd => apart d hd d List.mem_cons_self rfl, outside post (List.nodup_cons.mp tail).1]
  rw [List.perm_iff_count]
  intro c
  simp only [List.count_append]
  omega

theorem Pool.owned_same {q q' : Pool} (same : ∀ d, d ≠ 0 → (q'.descriptor d).cells = (q.descriptor d).cells) :
    q'.owned = q.owned := List.flatMap_congr fun d hd => same d (mem_generalDescriptors.mp hd)

/-! ### The accounts -/

/-- What a general descriptor owes to the entries that name it and to its holders (R78, R85, R86). -/
def Descriptor.Accounts (x : Descriptor) (named held : Nat) : Prop :=
  x.refs = named + held
    ∧ match x.state with
      | .free => x.refs = 0 ∧ x.cells = []
      | .receiving => held = 1
      | .held => held = 0 ∧ 1 ≤ named
      | .mgmtReply => False

/-- The pool in order, `named` and `held` counting the entries that name a descriptor and its holders. -/
structure Pool.Accounts (q : Pool) (named held : DescNo → Nat) : Prop where
  sorted : q.free.Pairwise (· < ·)
  cells : (q.free ++ q.owned).Perm generalCells
  reply : (q.descriptor 0).cells = replyCells
  each : ∀ d : DescNo, d ≠ 0 → (q.descriptor d).Accounts (named d) (held d)

/-- A count raised by one for one descriptor. -/
def oneMore (f : DescNo → Nat) (d : DescNo) : DescNo → Nat := fun k => f k + if k = d then 1 else 0

theorem oneMore_same (f : DescNo → Nat) (d : DescNo) : oneMore f d d = f d + 1 := by simp [oneMore]

theorem oneMore_other (f : DescNo → Nat) {d k : DescNo} (h : k ≠ d) : oneMore f d k = f k := by simp [oneMore, h]

theorem Descriptor.Accounts.receiving {x : Descriptor} {n h : Nat} (a : x.Accounts n h) (held : 1 ≤ h) :
    x.state = .receiving ∧ h = 1 ∧ x.refs = n + 1 := by
  obtain ⟨refs, state⟩ := a
  cases k : x.state <;> rw [k] at state
  · obtain ⟨zero, _⟩ := state; omega
  · have one : h = 1 := state; exact ⟨rfl, one, by omega⟩
  · obtain ⟨zero, _⟩ := state; omega
  · exact state.elim

theorem Descriptor.Accounts.free {x : Descriptor} {n h : Nat} (a : x.Accounts n h) (free : x.state = .free) :
    n = 0 ∧ h = 0 ∧ x.cells = [] := by
  obtain ⟨refs, state⟩ := a
  rw [free] at state
  obtain ⟨zero, cells⟩ := state
  exact ⟨by omega, by omega, cells⟩

theorem freeDescriptor_accounts : Descriptor.Accounts freeDescriptor 0 0 := ⟨rfl, rfl, rfl⟩

/-- A descriptor with another field than count, state and cells changed. -/
theorem Descriptor.Accounts.of_eq {x y : Descriptor} {n h : Nat} (a : x.Accounts n h) (refs : y.refs = x.refs)
    (state : y.state = x.state) (cells : y.cells = x.cells) : y.Accounts n h := by
  unfold Descriptor.Accounts
  rw [refs, state, cells]
  exact a

theorem Descriptor.Accounts.of_receiving {x : Descriptor} {n : Nat} (state : x.state = .receiving) (refs : x.refs = n + 1) :
    x.Accounts n 1 := by
  unfold Descriptor.Accounts
  rw [state]
  exact ⟨refs, rfl⟩

section
variable {q : Pool} {named held named' held' : DescNo → Nat}

theorem Pool.Accounts.congr (a : q.Accounts named held) (n : ∀ d, d ≠ 0 → named' d = named d)
    (h : ∀ d, d ≠ 0 → held' d = held d) : q.Accounts named' held' :=
  ⟨a.sorted, a.cells, a.reply, fun d general => by rw [n d general, h d general]; exact a.each d general⟩

/-- A pool in which only stored characters and descriptor 0's other fields have changed. -/
theorem Pool.Accounts.of_general {q' : Pool} (a : q.Accounts named held) (free : q'.free = q.free)
    (reply : (q'.descriptor 0).cells = (q.descriptor 0).cells)
    (same : ∀ d, d ≠ 0 → q'.descriptor d = q.descriptor d) : q'.Accounts named held := by
  refine ⟨free ▸ a.sorted, ?_, reply.trans a.reply, fun d general => ?_⟩
  · rw [free, Pool.owned_same fun d general => congrArg _ (same d general)]; exact a.cells
  · rw [same d general]; exact a.each d general

/-- One general descriptor changes and keeps its cells, and its accounts are given anew. -/
theorem Pool.Accounts.setDescriptor (a : q.Accounts named held) {d : DescNo} (general : d ≠ 0) {x : Descriptor}
    (cells : x.cells = (q.descriptor d).cells) (accounts : x.Accounts (named' d) (held' d))
    (n : ∀ k, k ≠ d → named' k = named k) (h : ∀ k, k ≠ d → held' k = held k) :
    (q.setDescriptor d x).Accounts named' held' := by
  have others : ∀ k, k ≠ d → (q.setDescriptor d x).descriptor k = q.descriptor k := fun k => q.setDescriptor_other x
  refine ⟨a.sorted, ?_, ?_, fun k hk => ?_⟩
  · rw [Pool.setDescriptor_free, Pool.owned_same fun k _ => ?_]
    · exact a.cells
    · by_cases e : k = d
      · rw [e, Pool.setDescriptor_same]; exact cells
      · rw [others k e]
  · rw [others 0 (Ne.symm general)]; exact a.reply
  · by_cases e : k = d
    · rw [e, Pool.setDescriptor_same]; exact accounts
    · rw [others k e, n k e, h k e]; exact a.each k hk

/-- A cell goes from the free list to the end of a general descriptor's list (R77). -/
theorem Pool.Accounts.giveCell (a : q.Accounts named held) {d : DescNo} (general : d ≠ 0) {c : CellNo} {rest : List CellNo}
    (free : q.free = c :: rest) {x : Descriptor} (cells : x.cells = (q.descriptor d).cells ++ [c])
    (accounts : x.Accounts (named' d) (held' d)) (n : ∀ k, k ≠ d → named' k = named k) (h : ∀ k, k ≠ d → held' k = held k) :
    (({ q with free := rest } : Pool).setDescriptor d x).Accounts named' held' := by
  have others : ∀ k, k ≠ d → (({ q with free := rest } : Pool).setDescriptor d x).descriptor k = q.descriptor k :=
    fun k => ({ q with free := rest } : Pool).setDescriptor_other x
  have change := Pool.owned_change general others
  refine ⟨(free ▸ a.sorted).of_cons, ?_, ?_, fun k hk => ?_⟩
  · refine List.Perm.trans ?_ a.cells
    rw [Pool.setDescriptor_same, cells] at change
    rw [Pool.setDescriptor_free, free]
    rw [List.perm_iff_count] at change ⊢
    intro k
    have := change k
    simp only [List.count_append, List.count_cons, List.count_nil] at this ⊢
    omega
  · rw [others 0 (Ne.symm general)]; exact a.reply
  · by_cases e : k = d
    · rw [e, Pool.setDescriptor_same]; exact accounts
    · rw [others k e, n k e, h k e]; exact a.each k hk

/-- A general descriptor that nothing counts any more is FREE, its cells on the free list (R78). -/
theorem Pool.Accounts.release (a : q.Accounts named held) {d : DescNo} (general : d ≠ 0) (none : named' d = 0)
    (nobody : held' d = 0) (n : ∀ k, k ≠ d → named' k = named k) (h : ∀ k, k ≠ d → held' k = held k) :
    (q.release d).Accounts named' held' := by
  have others : ∀ k, k ≠ d → (q.release d).descriptor k = q.descriptor k := fun k => Pool.release_descriptor_other q
  have change := Pool.owned_change general others
  have same : (q.release d).descriptor d = freeDescriptor := Pool.release_descriptor_same q d
  have freed : (q.release d).free = returnCells (q.descriptor d).cells q.free := rfl
  have empty : freeDescriptor.cells = [] := rfl
  rw [same, empty, List.append_nil] at change
  have distinct : (q.free ++ (q.descriptor d).cells).Nodup := by
    have all : (q.free ++ ((q.release d).owned ++ (q.descriptor d).cells)).Nodup :=
      ((change.append_left q.free).trans a.cells).nodup_iff.mpr generalCells_nodup
    exact all.sublist ((List.Sublist.refl _).append (List.sublist_append_right _ _))
  refine ⟨freed ▸ returnCells_sorted _ a.sorted, ?_, ?_, fun k hk => ?_⟩
  · rw [freed]
    refine (((returnCells_perm _ distinct).append_right _).trans ?_).trans a.cells
    rw [List.append_assoc]
    exact (List.perm_append_comm.trans change).append_left q.free
  · rw [others 0 (Ne.symm general)]; exact a.reply
  · by_cases e : k = d
    · rw [e, same, none, nobody]; exact freeDescriptor_accounts
    · rw [others k e, n k e, h k e]; exact a.each k hk

/-! ### The pool's operations -/

theorem Pool.freeDescriptor_spec {d : DescNo} (h : q.freeDescriptor? = some d) : d ≠ 0 ∧ (q.descriptor d).state = .free := by
  unfold Pool.freeDescriptor? at h
  have found := List.find?_some h
  exact of_decide_eq_true found

theorem Pool.takeCell_spec {c : CellNo} {q' : Pool} (h : q.takeCell = some (c, q')) :
    ∃ rest, q.free = c :: rest ∧ q' = { q with free := rest } := by
  unfold Pool.takeCell at h
  split at h
  · cases h
  · next free => cases h; exact ⟨_, free, rfl⟩

theorem Pool.Accounts.recordDamage (a : q.Accounts named held) (d : DescNo) (x : Option Damage) :
    (q.recordDamage d x).Accounts named held := by
  by_cases general : d = 0
  · subst general
    refine a.of_general rfl ?_ fun k hk => Pool.setDescriptor_other q _ hk
    rw [Pool.recordDamage, Pool.setDescriptor_same]
  · exact a.setDescriptor general rfl ((a.each d general).of_eq rfl rfl rfl) (fun _ _ => rfl) fun _ _ => rfl

theorem Pool.Accounts.putChar (a : q.Accounts named held) (d : DescNo) (i : Nat) (c : Chr) :
    (q.putChar d i c).Accounts named held :=
  a.of_general (q.putChar_free d i c) (congrArg _ (q.putChar_descriptor d 0 i c)) fun k _ => q.putChar_descriptor d k i c

theorem Pool.Accounts.appendChar (a : q.Accounts named held) {d : DescNo} (general : d ≠ 0) (c : Chr) :
    (q.appendChar d c).Accounts named held := by
  have put := a.putChar d (q.descriptor d).length c
  refine put.setDescriptor general ?_ ((a.each d general).of_eq rfl rfl rfl) (fun _ _ => rfl) fun _ _ => rfl
  rw [Pool.putChar_descriptor]

theorem Pool.Accounts.storeBody (a : q.Accounts named held) {d : DescNo} (general : d ≠ 0) (used : 1 ≤ held d) (c : Chr) :
    (q.storeBody d c).2.Accounts named held := by
  unfold Pool.storeBody
  dsimp only
  split
  · exact a.recordDamage d _
  · split
    · split
      · exact a.recordDamage d _
      · next taken =>
        obtain ⟨rest, free, rfl⟩ := Pool.takeCell_spec taken
        obtain ⟨state, one, refs⟩ := (a.each d general).receiving used
        exact (a.giveCell general free rfl (one ▸ .of_receiving state refs) (fun _ _ => rfl) fun _ _ => rfl).appendChar
          general c
    · exact a.appendChar general c

theorem Pool.Accounts.openTelegram (a : q.Accounts named held) {p : Port} {addr : Chr} {x : Option Damage} {d : DescNo}
    {b : Bool} {q' : Pool} (h : q.openTelegram p addr x = some (d, b, q')) : q'.Accounts named (oneMore held d) := by
  have found := Pool.openTelegram_spec h
  obtain ⟨general, free⟩ := Pool.freeDescriptor_spec found
  obtain ⟨unnamed, unheld, none⟩ := (a.each d general).free free
  have opened : ∀ cells y, (openedDescriptor p addr cells y).Accounts (named d) (oneMore held d d) := fun _ _ => by
    rw [oneMore_same, unnamed, unheld]
    exact .of_receiving rfl rfl
  have others : ∀ k, k ≠ d → oneMore held d k = held k := fun k => oneMore_other held
  unfold Pool.openTelegram at h
  rw [found] at h
  dsimp only at h
  split at h
  · next c _ taken =>
    obtain ⟨rest, cell, rfl⟩ := Pool.takeCell_spec taken
    cases h
    exact (a.giveCell general cell (by rw [none]; rfl) (opened [c] x) (fun _ _ => rfl) others).putChar d 0 addr
  · cases h
    exact a.setDescriptor general none.symm (opened [] _) (fun _ _ => rfl) others

theorem Pool.Accounts.fillStandIn (a : q.Accounts named held) {d : DescNo} {c : CellNo} {q' : Pool}
    (found : q.freeDescriptor? = some d) (taken : q.takeCell = some (c, q')) (r : ExchangeRecord) (cs : List Chr)
    (wide : Bool) : (q'.fillStandIn d c r cs wide).Accounts named (oneMore held d) := by
  obtain ⟨general, free⟩ := Pool.freeDescriptor_spec found
  obtain ⟨unnamed, unheld, none⟩ := (a.each d general).free free
  obtain ⟨rest, cell, rfl⟩ := Pool.takeCell_spec taken
  have written : ({ q with cells := writeCells q.cells (c.val * Config.cellSize) cs } : Pool).Accounts named held :=
    a.of_general rfl rfl fun _ _ => rfl
  refine written.giveCell general cell (c := c) (congrArg (· ++ [c]) none).symm ?_ (fun _ _ => rfl)
    fun k => oneMore_other held
  rw [oneMore_same, unnamed, unheld]
  exact .of_receiving rfl rfl

theorem Pool.Accounts.giveUp {d : DescNo} (a : q.Accounts named (oneMore held d)) (general : d ≠ 0) :
    (q.giveUp d).Accounts named held := by
  have others : ∀ k, k ≠ d → held k = oneMore held d k := fun k e => (oneMore_other held e).symm
  have each := a.each d general
  rw [oneMore_same] at each
  obtain ⟨state, one, refs⟩ := each.receiving (by omega)
  unfold Pool.giveUp
  dsimp only
  split
  · exact a.release general (by omega) (by omega) (fun _ _ => rfl) others
  · refine a.setDescriptor general rfl ?_ (fun _ _ => rfl) others
    exact ⟨by dsimp only; omega, by omega, by omega⟩

theorem Pool.Accounts.dropRef {d : DescNo} (a : q.Accounts (oneMore named d) held) : (q.dropRef d).Accounts named held := by
  have others : ∀ k, k ≠ d → named k = oneMore named d k := fun k e => (oneMore_other named e).symm
  unfold Pool.dropRef
  dsimp only
  by_cases general : d = 0
  · subst general
    rw [if_neg (by simp)]
    refine (a.congr others fun _ _ => rfl).of_general rfl ?_ fun k hk => Pool.setDescriptor_other q _ hk
    rw [Pool.setDescriptor_same]
  · have each := a.each d general
    rw [oneMore_same] at each
    obtain ⟨refs, state⟩ := each
    split
    · next last => exact a.release general (by omega) (by omega) others fun _ _ => rfl
    · next more =>
      refine a.setDescriptor general rfl ⟨by dsimp only; omega, ?_⟩ others fun _ _ => rfl
      dsimp only
      cases k : (q.descriptor d).state <;> rw [k] at state
      · obtain ⟨zero, _⟩ := state; omega
      · exact state
      · obtain ⟨zero, _⟩ := state
        have another : (q.descriptor d).refs - 1 ≠ 0 := fun e => more ⟨e, general⟩
        exact ⟨zero, by omega⟩
      · exact state

theorem Pool.Accounts.addRef (a : q.Accounts named held) {d : DescNo} (used : d ≠ 0 → 1 ≤ held d) :
    (q.addRef d).Accounts (oneMore named d) held := by
  have others : ∀ k, k ≠ d → oneMore named d k = named k := fun k e => oneMore_other named e
  by_cases general : d = 0
  · subst general
    refine (a.congr others fun _ _ => rfl).of_general rfl ?_ fun k hk => Pool.setDescriptor_other q _ hk
    rw [Pool.addRef, Pool.setDescriptor_same]
  · obtain ⟨state, one, refs⟩ := (a.each d general).receiving (used general)
    refine a.setDescriptor general rfl ?_ others fun _ _ => rfl
    rw [oneMore_same, one]
    exact .of_receiving state (by dsimp only; omega)

theorem Pool.Accounts.writeReply (a : q.Accounts named held) (addr : Chr) (cs : List Chr) :
    (q.writeReply addr cs).Accounts named held := by
  refine a.of_general rfl ?_ fun k hk => ?_
  · rw [Pool.writeReply, Pool.setDescriptor_same, a.reply]
  · rw [Pool.writeReply, Pool.setDescriptor_other _ _ hk]; rfl

end

theorem freePool_descriptor (cells : List Host.Cell) {d : DescNo} (general : d ≠ 0) :
    (freePool cells).descriptor d = freeDescriptor := by
  have ne : (0 : DescNo).val ≠ d.val := fun e => general (Fin.ext e.symm)
  exact (Vector.getElem_set_ne (by decide) d.isLt ne).trans (Vector.getElem_replicate d.isLt)

/-- The pool after a restart: nothing named, nothing held (R92, R93). -/
theorem freePool_accounts (cells : List Host.Cell) : (freePool cells).Accounts (fun _ => 0) fun _ => 0 := by
  refine ⟨generalCells_sorted, ?_, rfl, fun d general => ?_⟩
  · have nothing : (freePool cells).owned = [] :=
      List.flatMap_eq_nil_iff.mpr fun d hd => by rw [freePool_descriptor cells (mem_generalDescriptors.mp hd)]; rfl
    rw [nothing, List.append_nil]
    exact .refl _
  · rw [freePool_descriptor cells general]; exact freeDescriptor_accounts

end Sys2Proof.Machine
end

section
/-! PROOFS. Queues, descriptor 0 and the pool's accounts through every step. -/

namespace Sys2Proof.Machine

/-! ### Counting -/

/-- How often a descriptor stands in a list. -/
def tally (l : List DescNo) (d : DescNo) : Nat := (l.filter fun k => decide (k = d)).length

theorem tally_cons (k : DescNo) (l : List DescNo) (d : DescNo) : tally (k :: l) d = oneMore (tally l) k d := by
  unfold tally oneMore
  by_cases e : k = d
  · simp [e]
  · simp [e, Ne.symm e]

theorem tally_append (l m : List DescNo) (d : DescNo) : tally (l ++ m) d = tally l d + tally m d := by
  simp [tally]

theorem tally_perm {l m : List DescNo} (h : l.Perm m) (d : DescNo) : tally l d = tally m d := (h.filter _).length_eq

theorem tally_pos {l : List DescNo} {d : DescNo} (h : d ∈ l) : 1 ≤ tally l d :=
  List.length_pos_iff_exists_mem.mpr ⟨d, List.mem_filter.mpr ⟨h, decide_eq_true rfl⟩⟩

theorem tally_eq_zero {l : List DescNo} {d : DescNo} (h : tally l d = 0) : d ∉ l := fun k => by
  have := tally_pos k
  omega

theorem tally_optional (o : Option DescNo) (d : DescNo) : tally o.toList d = if o = some d then 1 else 0 := by
  cases o with
  | none => rfl
  | some k => by_cases e : k = d <;> simp [tally, e]

/-- The descriptors a queue names, entry by entry. -/
abbrev queued (q : List QueueEntry) : List DescNo := q.map QueueEntry.desc

theorem tally_queued (q : List QueueEntry) (d : DescNo) :
    tally (queued q) d = (q.filter fun e => decide (e.desc = d)).length := by
  unfold tally queued
  rw [List.filter_map, List.length_map]
  rfl

theorem replyEntries_length (q : List QueueEntry) : (replyEntries q).length = tally (queued q) 0 := (tally_queued q 0).symm

/-- The sum of a count over all ports. -/
def State.total (s : State) (f : PortState → Nat) : Nat := (Port.all.map fun p => f (s.port p)).sum

theorem State.total_setPort (s : State) (p : Port) (x : PortState) (f : PortState → Nat) :
    (s.setPort p x).total f + f (s.port p) = s.total f + f x := by
  unfold State.total Port.all
  simp only [List.map_cons, List.map_nil, List.sum_cons, List.sum_nil]
  cases p <;> simp only [State.setPort, State.port, PerPort.get, PerPort.set] <;> omega

/-- The descriptors whose RECEIVING reference a port holds, its receiver's and its completions' (R29, R78). -/
def PortState.handles (x : PortState) : List DescNo :=
  x.receiver.names.toList ++ x.completions.flatMap fun c => c.desc.toList

/-- How many RECEIVING references to a descriptor a port holds. -/
def PortState.holds (x : PortState) (d : DescNo) : Nat := tally x.handles d

/-- The entries of a port's queue that name a descriptor (R78). -/
def PortState.naming (x : PortState) (d : DescNo) : Nat := tally (queued x.scheduler.queue) d

theorem tally_completions (cs : List Completion) (d : DescNo) :
    tally (cs.flatMap fun c => c.desc.toList) d = (cs.filter fun c => decide (c.desc = some d)).length := by
  induction cs with
  | nil => rfl
  | cons c cs ih =>
    rw [List.flatMap_cons, tally_append, tally_optional, ih, List.filter_cons]
    by_cases e : c.desc = some d <;> simp [e, Nat.add_comm]

theorem holders_eq (s : State) (d : DescNo) : s.holders d = s.total (·.holds d) + tally s.agent.requests d := by
  unfold State.holders State.total
  refine congrArg (· + _) (congrArg List.sum (List.map_congr_left fun p _ => ?_))
  unfold PortState.holds PortState.handles
  dsimp only
  rw [tally_append, tally_completions, tally_optional]
  refine congrArg (· + _) ?_
  cases (s.port p).receiver <;> simp only [Receiver.names, reduceCtorEq, if_false, Option.some.injEq]
  split <;> simp_all

theorem naming_eq (s : State) (d : DescNo) : s.naming d = s.total (·.naming d) := by
  unfold State.naming State.total
  exact congrArg List.sum (List.map_congr_left fun p _ => (tally_queued _ d).symm)

/-! ### Queues and descriptor 0 -/

/-- A port's receiver and completions leave descriptor 0 alone, and its queue is within its size, a branch's without the
reply (R42, R89, R94). -/
structure PortState.Orderly (x : PortState) (p : Port) : Prop where
  completions : ∀ c ∈ x.completions, c.desc ≠ some 0
  receiver : x.receiver.names ≠ some 0
  branch : p ≠ .trunk → x.scheduler.queue.length ≤ Config.queueSize ∧ tally (queued x.scheduler.queue) 0 = 0
  trunk : p = .trunk → (x.scheduler.queue.filter fun e => decide (e.desc ≠ 0)).length ≤ Config.trunkOrdinary

/-- What O60 says of queues and descriptor 0, with what the unit at work holds. -/
structure QueuesHeld (s : State) (g : Held) : Prop where
  ports : ∀ p, (s.port p).Orderly p
  refs : (s.pool.descriptor 0).refs = (s.port .trunk).naming 0 + tally g.loose 0
  one : (s.pool.descriptor 0).refs ≤ 1
  executing : s.agent.executing.isSome = true → (s.pool.descriptor 0).refs = 0
  requests : (0 : DescNo) ∉ s.agent.requests
  hands : (0 : DescNo) ∉ g.hands

theorem Receiver.names_iff {r : Receiver} {d : DescNo} : r.names = some d ↔ ∃ b, r = .inTelegram d b := by
  cases r <;> simp [Receiver.names]

theorem queuesHeld_iff (s : State) : QueuesHeld s .nothing ↔ QueuesSound s := by
  have none : tally Held.nothing.loose 0 = 0 := rfl
  have empty : ∀ q : List QueueEntry, replyEntries q = [] ↔ tally (queued q) 0 = 0 := fun q => by
    rw [← replyEntries_length, List.length_eq_zero_iff]
  constructor
  · rintro ⟨ports, refs, one, executing, requests, _⟩
    refine ⟨fun p branch => ?_, (ports .trunk).trunk rfl, ?_, one, executing, fun p => (ports p).completions, fun p b e => ?_,
      requests⟩
    · obtain ⟨size, reply⟩ := (ports p).branch (isBranch_iff.mp branch)
      exact ⟨size, (empty _).mpr reply⟩
    · rw [refs, none, replyEntries_length]; rfl
    · exact (ports p).receiver (Receiver.names_iff.mpr ⟨b, e⟩)
  · rintro ⟨branch, trunk, refs, one, executing, completions, receivers, requests⟩
    refine ⟨fun p => ⟨completions p, fun k => ?_, fun e => ?_, fun e => e ▸ trunk⟩, ?_, one, executing, requests,
      List.not_mem_nil⟩
    · obtain ⟨b, e⟩ := Receiver.names_iff.mp k
      exact receivers p b e
    · obtain ⟨size, reply⟩ := branch p (isBranch_iff.mpr e)
      exact ⟨size, (empty _).mp reply⟩
    · rw [refs, none, replyEntries_length]; rfl

section
variable {s : State} {g : Held} (i : QueuesHeld s g)
include i

theorem QueuesHeld.forall_setPort {p : Port} {x : PortState} (h : x.Orderly p) : ∀ q, ((s.setPort p x).port q).Orderly q :=
  fun q => by
    by_cases e : q = p
    · rw [e, State.setPort_port]; exact h
    · rw [State.setPort_port_other _ _ e]; exact i.ports q

/-- A change of a port that keeps its queue. -/
theorem QueuesHeld.setPort {p : Port} {x : PortState} (queue : x.scheduler.queue = (s.port p).scheduler.queue)
    (completions : ∀ c ∈ x.completions, c.desc ≠ some 0) (receiver : x.receiver.names ≠ some 0) :
    QueuesHeld (s.setPort p x) g := by
  refine ⟨i.forall_setPort ⟨completions, receiver, ?_, ?_⟩, ?_, i.one, i.executing, i.requests, i.hands⟩
  · rw [queue]; exact (i.ports p).branch
  · rw [queue]; exact (i.ports p).trunk
  · refine i.refs.trans (congrArg (· + _) ?_)
    by_cases e : p = .trunk
    · subst e; rw [State.setPort_port, PortState.naming, PortState.naming, queue]
    · rw [State.setPort_port_other _ _ (Ne.symm e)]

/-- A change of a port that keeps its queue, receiver and completions. -/
theorem QueuesHeld.setPort_same {p : Port} {x : PortState} (queue : x.scheduler.queue = (s.port p).scheduler.queue)
    (completions : x.completions = (s.port p).completions) (receiver : x.receiver.names = (s.port p).receiver.names) :
    QueuesHeld (s.setPort p x) g :=
  i.setPort queue (completions ▸ (i.ports p).completions) (receiver ▸ (i.ports p).receiver)

/-- A change of the pool that leaves descriptor 0's count. -/
theorem QueuesHeld.withPool {q : Pool} (refs : (q.descriptor 0).refs = (s.pool.descriptor 0).refs) :
    QueuesHeld (s.withPool q) g := by
  refine ⟨i.ports, refs.trans i.refs, refs.trans_le i.one, fun e => refs.trans (i.executing e), i.requests, i.hands⟩

theorem QueuesHeld.withTrunk (x : TrunkState) : QueuesHeld (s.withTrunk x) g :=
  ⟨i.ports, i.refs, i.one, i.executing, i.requests, i.hands⟩

/-- A change of the agent that keeps the executing command and the requests. -/
theorem QueuesHeld.withAgent {a : Agent} (executing : a.executing = s.agent.executing)
    (requests : a.requests = s.agent.requests) : QueuesHeld (s.withAgent a) g :=
  ⟨i.ports, i.refs, i.one, fun e => i.executing (executing ▸ e), by
    change 0 ∉ a.requests
    rw [requests]
    exact i.requests, i.hands⟩

/-- An entry of a telegram joins a queue that is not full (R42). -/
theorem QueuesHeld.join {p : Port} {e : QueueEntry} (general : e.desc ≠ 0) (room : s.queueFull p = false) :
    QueuesHeld (s.join p e) g := by
  have tail : ∀ q : List QueueEntry, tally (queued (q ++ [e])) 0 = tally (queued q) 0 := fun q => by
    rw [queued, List.map_append, tally_append, List.map_singleton, tally_cons, oneMore_other _ (Ne.symm general)]
    rfl
  have pooled := i.withPool (q := s.pool.addRef e.desc) (by rw [Pool.addRef, Pool.setDescriptor_other _ _ (Ne.symm general)])
  refine ⟨pooled.forall_setPort ⟨(i.ports p).completions, (i.ports p).receiver, fun branch => ⟨?_, ?_⟩, fun e => ?_⟩, ?_,
    pooled.one, pooled.executing, i.requests, i.hands⟩
  · have : ¬ Config.queueSize ≤ (s.scheduler p).queue.length := by
      cases p <;> first | exact absurd rfl branch | exact of_decide_eq_false room
    change ((s.scheduler p).queue ++ [e]).length ≤ _
    rw [List.length_append, List.length_singleton]
    omega
  · exact (tail _).trans ((i.ports p).branch branch).2
  · subst e
    have := of_decide_eq_false room
    change (((s.scheduler .trunk).queue ++ [_]).filter _).length ≤ _
    rw [List.filter_append, List.length_append]
    have : (List.filter (fun e => decide (e.desc ≠ 0)) [e]).length ≤ 1 := List.length_filter_le _ _
    omega
  · refine pooled.refs.trans (congrArg (· + _) ?_)
    by_cases e : p = .trunk
    · subst e
      rw [State.join, State.onScheduler_eq, State.setPort_port]
      exact (tail _).symm
    · rw [State.join, State.onScheduler_port_other _ _ (Ne.symm e)]

/-- The management reply joins the trunk's queue, into the place kept for it (R89). -/
theorem QueuesHeld.joinReply {line : Chr} (free : (s.pool.descriptor 0).refs = 0) (idle : s.agent.executing = none) :
    QueuesHeld (s.join .trunk ⟨0, line, none⟩) g := by
  have one : ((s.join .trunk ⟨0, line, none⟩).pool.descriptor 0).refs = 1 := by
    change ((s.pool.addRef 0).descriptor 0).refs = 1
    rw [Pool.addRef, Pool.setDescriptor_same, free]
  refine ⟨i.forall_setPort ⟨(i.ports .trunk).completions, (i.ports .trunk).receiver, fun branch => absurd rfl branch,
    fun _ => ?_⟩, ?_, one.le, fun e => ?_, i.requests, i.hands⟩
  · change (((s.scheduler .trunk).queue ++ [_]).filter _).length ≤ _
    rw [List.filter_append]
    exact (List.append_nil _ ▸ (i.ports .trunk).trunk rfl)
  · have refs := i.refs
    rw [one, State.join, State.onScheduler_eq, State.setPort_port]
    change 1 = tally (queued ((s.scheduler .trunk).queue ++ [⟨0, line, none⟩])) 0 + tally g.loose 0
    rw [queued, List.map_append, tally_append]
    change 1 = (s.port .trunk).naming 0 + 1 + tally g.loose 0
    omega
  · rw [show (s.join .trunk ⟨0, line, none⟩).agent = s.agent from rfl, idle] at e
    cases e

end

theorem openCompletion_desc {q : Pool} {r : Receiver} {c : Completion} (h : openCompletion q r = some c) : c.desc = r.names := by
  cases r <;> simp only [openCompletion, Option.some.injEq, reduceCtorEq] at h <;> (subst h; rfl)

theorem Pool.openTelegram_refs {q q' : Pool} {p : Port} {a : Chr} {x : Option Damage} {d k : DescNo} {b : Bool}
    (h : q.openTelegram p a x = some (d, b, q')) (other : k ≠ d) : q'.descriptor k = q.descriptor k := by
  have found := Pool.openTelegram_spec h
  unfold Pool.openTelegram at h
  rw [found] at h
  dsimp only at h
  split at h
  · next c _ taken =>
    obtain ⟨rest, _, rfl⟩ := Pool.takeCell_spec taken
    cases h
    rw [Pool.putChar_descriptor, Pool.setDescriptor_other _ _ other]
    rfl
  · cases h
    rw [Pool.setDescriptor_other _ _ other]

theorem Pool.recordDamage_refs (q : Pool) (d k : DescNo) (x : Option Damage) :
    ((q.recordDamage d x).descriptor k).refs = (q.descriptor k).refs := by
  by_cases e : k = d
  · subst e; rw [Pool.recordDamage, Pool.setDescriptor_same]
  · rw [Pool.recordDamage, Pool.setDescriptor_other _ _ e]

theorem Pool.appendChar_refs (q : Pool) (d k : DescNo) (c : Chr) :
    ((q.appendChar d c).descriptor k).refs = (q.descriptor k).refs := by
  by_cases e : k = d
  · subst e; rw [Pool.appendChar, Pool.setDescriptor_same]
  · rw [Pool.appendChar, Pool.setDescriptor_other _ _ e, Pool.putChar_descriptor]

theorem Pool.storeBody_refs (q : Pool) (d k : DescNo) (c : Chr) :
    ((q.storeBody d c).2.descriptor k).refs = (q.descriptor k).refs := by
  unfold Pool.storeBody
  dsimp only
  split
  · exact q.recordDamage_refs d k _
  · split
    · split
      · exact q.recordDamage_refs d k _
      · next taken =>
        obtain ⟨rest, _, rfl⟩ := Pool.takeCell_spec taken
        rw [Pool.appendChar_refs]
        by_cases e : k = d
        · subst e; rw [Pool.setDescriptor_same]
        · rw [Pool.setDescriptor_other _ _ e]; rfl
    · exact q.appendChar_refs d k c

theorem Pool.fillStandIn_other {q q' : Pool} {c : CellNo} (h : q.takeCell = some (c, q')) {d k : DescNo} (r : ExchangeRecord)
    (cs : List Chr) (wide : Bool) (other : k ≠ d) : (q'.fillStandIn d c r cs wide).descriptor k = q.descriptor k := by
  obtain ⟨rest, _, rfl⟩ := Pool.takeCell_spec h
  rw [Pool.fillStandIn, Pool.setDescriptor_other _ _ other]
  rfl

theorem Pool.giveUp_other (q : Pool) {d k : DescNo} (other : k ≠ d) : (q.giveUp d).descriptor k = q.descriptor k := by
  unfold Pool.giveUp
  dsimp only
  split
  · exact Pool.release_descriptor_other q other
  · exact Pool.setDescriptor_other _ _ other

theorem Pool.dropRef_other (q : Pool) {d k : DescNo} (other : k ≠ d) : (q.dropRef d).descriptor k = q.descriptor k := by
  unfold Pool.dropRef
  dsimp only
  split
  · exact Pool.release_descriptor_other q other
  · exact Pool.setDescriptor_other _ _ other

theorem Pool.dropRef_reply (q : Pool) : ((q.dropRef 0).descriptor 0).refs = (q.descriptor 0).refs - 1 := by
  unfold Pool.dropRef
  dsimp only
  rw [if_neg (by simp), Pool.setDescriptor_same]

theorem passes_room {s : State} {p : Port} {line : Chr} {wide : Bool} (h : s.filter p line wide = none) :
    s.queueFull p = false := by
  by_contra full
  rw [Bool.not_eq_false] at full
  unfold State.filter at h
  simp only [full, if_true] at h
  split at h
  · cases h
  · split at h <;> cases h

/-- A queue from which entries have left is within its size, and the descriptors they name are accounted for. -/
theorem PortState.Orderly.leave {x : PortState} {p : Port} (o : x.Orderly p) {c : Scheduler} {es : List QueueEntry}
    (queue : (c.queue ++ es).Perm x.scheduler.queue) : ({ x with scheduler := c } : PortState).Orderly p := by
  have named := tally_perm (queue.map QueueEntry.desc) 0
  rw [List.map_append, tally_append] at named
  refine ⟨o.completions, o.receiver, fun branch => ?_, fun trunk => ?_⟩
  · obtain ⟨size, reply⟩ := o.branch branch
    have length := queue.length_eq
    rw [List.length_append] at length
    exact ⟨by dsimp only; omega, by dsimp only [queued] at *; omega⟩
  · have length := (queue.filter fun e => decide (e.desc ≠ 0)).length_eq
    rw [List.filter_append, List.length_append] at length
    have := o.trunk trunk
    dsimp only
    omega

theorem Move.queuesHeld {s t : State} {g h : Held} (m : Move s g t h) (i : QueuesHeld s g) : QueuesHeld t h := by
  have ⟨ports, refs, one, executing, requests, hands⟩ := i
  cases m
  case line p x same _ => exact i.setPort_same (by rw [same]; rfl) (by rw [same]; rfl) (by rw [same]; rfl)
  case receiver names _ => exact i.setPort_same rfl rfl names
  case close p c isOpen =>
    refine i.setPort rfl (fun k hk => ?_) (by simp [Receiver.names])
    rcases List.mem_append.mp hk with hk | hk
    · exact (ports p).completions k hk
    · rw [List.mem_singleton.mp hk, openCompletion_desc isOpen]
      exact (ports p).receiver
  case letGo p d b held =>
    have general : d ≠ 0 := fun e => (ports p).receiver (by rw [held, e]; rfl)
    have moved := i.setPort (p := p) (x := { s.port p with receiver := .off }) rfl (ports p).completions (by simp [Receiver.names])
    exact ⟨moved.ports, moved.refs, one, executing, requests, by simp [Ne.symm general, hands]⟩
  case takeCompletion p c rest raised =>
    have each := (ports p).completions
    rw [raised] at each
    have moved := i.setPort (p := p) (x := { s.port p with completions := rest }) rfl
      (fun k hk => each k (List.mem_cons_of_mem _ hk)) (ports p).receiver
    refine ⟨moved.ports, moved.refs, one, executing, requests, ?_⟩
    have := each c List.mem_cons_self
    simp [hands, this]
  case openTelegram p a dm d b q _ taken =>
    have general := (Pool.freeDescriptor_spec (Pool.openTelegram_spec taken)).1
    refine QueuesHeld.setPort (i.withPool (q := q) ?_) rfl (ports p).completions ?_
    · rw [Pool.openTelegram_refs taken (Ne.symm general)]
    · simpa [Receiver.names] using general
  case damage d dm => exact i.withPool (s.pool.recordDamage_refs d 0 dm)
  case storeBody d b c _ => exact i.withPool (s.pool.storeBody_refs d 0 c)
  case fillStandIn d c q r cs wide free cell =>
    have general := (Pool.freeDescriptor_spec free).1
    have moved := i.withPool (q := q.fillStandIn d c r cs wide)
      (congrArg _ (Pool.fillStandIn_other cell r cs wide (Ne.symm general)))
    exact ⟨moved.ports, moved.refs, moved.one, moved.executing, requests, by simp [Ne.symm general, hands]⟩
  case giveUp d =>
    simp only [List.mem_cons, not_or] at hands
    have moved := i.withPool (q := s.pool.giveUp d) (congrArg _ (s.pool.giveUp_other hands.1))
    exact ⟨moved.ports, moved.refs, moved.one, moved.executing, requests, hands.2⟩
  case dropRef hs ls lost d =>
    rw [tally_cons] at refs
    by_cases e : d = 0
    · subst e
      rw [oneMore_same] at refs
      have less : ((s.withPool (s.pool.dropRef 0)).pool.descriptor 0).refs = (s.pool.descriptor 0).refs - 1 :=
        s.pool.dropRef_reply
      refine ⟨ports, ?_, by omega, fun k => by have := executing k; omega, requests, hands⟩
      rw [less]
      change _ = (s.port .trunk).naming 0 + tally ls 0
      omega
    · rw [oneMore_other _ (Ne.symm e)] at refs
      have kept : (s.pool.dropRef d).descriptor 0 = s.pool.descriptor 0 := s.pool.dropRef_other (Ne.symm e)
      have moved := i.withPool (q := s.pool.dropRef d) (congrArg _ kept)
      exact ⟨moved.ports, (congrArg Descriptor.refs kept).trans refs, moved.one, moved.executing, requests, hands⟩
  case scheduler queue _ => exact i.setPort_same queue rfl rfl
  case start p x queue names => exact i.setPort_same rfl rfl names.symm
  case join p e line wide passes held => exact i.join (fun e => hands (e ▸ held)) (passes_room passes)
  case reply rid a ready =>
    have free : (s.pool.descriptor 0).refs = 0 := ready.elim executing fun e => e
    have written := (i.withPool (q := s.pool.writeReply s.mgmtAddress (s.replyChars rid a))
      (by rw [Pool.writeReply, Pool.setDescriptor_same]; exact free.symm))
    refine QueuesHeld.joinReply (s := s.replyWritten rid a) ⟨ports, written.refs, written.one, nofun, requests, hands⟩ ?_ rfl
    change ((s.pool.writeReply s.mgmtAddress (s.replyChars rid a)).descriptor 0).refs = 0
    rw [Pool.writeReply, Pool.setDescriptor_same]
  case replay idle none => exact i.joinReply none idle
  case leave h l u p c es queue phase =>
    refine ⟨i.forall_setPort ((ports p).leave queue), refs.trans ?_, one, executing, requests, hands⟩
    have named := tally_perm (queue.map QueueEntry.desc) 0
    rw [List.map_append, tally_append] at named
    rw [tally_append]
    by_cases e : p = .trunk
    · subst e
      rw [State.setPort_port]
      unfold PortState.naming queued at *
      rw [State.scheduler_def] at named
      dsimp only at *
      omega
    · rw [State.setPort_port_other _ _ (Ne.symm e)]
      have none := ((ports p).branch e).2
      rw [State.scheduler_def] at named
      unfold queued at none
      dsimp only at *
      omega
  case thinned m _ =>
    rcases settleDepth_cases (s.withTable m) with e | ⟨d, _, _, e⟩ <;> rw [e]
    · exact ⟨ports, refs, one, executing, requests, hands⟩
    · exact QueuesHeld.setPort_same (s := (s.withTable m).withTrunk { s.trunk with pendingDepth := none })
        ⟨ports, refs, one, executing, requests, hands⟩ rfl rfl rfl
  case down p a _ _ _ =>
    have moved := i.setPort_same (p := p) (x := { s.port p with admin := a }) rfl rfl rfl
    exact ⟨moved.ports, moved.refs, one, executing, requests, hands⟩
  case activate p _ _ => exact i.setPort rfl (ports p).completions (by simp [Receiver.names])
  case install f _ =>
    rcases formatInstalled_cases s f with ⟨_, e⟩ | ⟨_, e⟩ <;>
      (rw [e]; exact (i.withTrunk _).setPort_same rfl rfl rfl)
  case agent executing requests _ => exact i.withAgent executing requests
  case execute none => exact ⟨ports, refs, one, fun _ => none, requests, hands⟩
  case hand d =>
    simp only [List.mem_cons, not_or] at hands
    exact ⟨ports, refs, one, executing, by simp [requests, hands.1], hands.2⟩
  case takeRequest d rest handed =>
    rw [handed, List.mem_cons, not_or] at requests
    exact ⟨ports, refs, one, executing, requests.2, by simp [hands, requests.1]⟩
  case warm =>
    have quiet : ∀ (x : PortState) (p : Port), x.warm.Orderly p := fun x p =>
      ⟨fun _ hc => absurd hc List.not_mem_nil, by
        unfold PortState.warm
        dsimp only
        split <;> simp [Receiver.names], fun _ => ⟨Nat.zero_le _, rfl⟩, fun _ => Nat.zero_le _⟩
    refine ⟨fun p => ?_, rfl, Nat.zero_le _, fun _ => rfl, List.not_mem_nil, List.not_mem_nil⟩
    exact warmed_forall (P := fun x => x.Orderly p) (fun q => quiet _ p)
      ⟨(quiet (s.port .trunk) p).completions, (quiet (s.port .trunk) p).receiver, fun _ => ⟨Nat.zero_le _, rfl⟩,
        fun _ => Nat.zero_le _⟩ p
  case cold =>
    have quiet : ∀ (f : FormatRecord) (a : AdminState) (r : Receiver) (l : Level) (p : Port), r.names ≠ some 0 →
        (coldPort f a r l).Orderly p := fun _ _ _ _ p names =>
      ⟨fun _ hc => absurd hc List.not_mem_nil, names, fun _ => ⟨Nat.zero_le _, rfl⟩, fun _ => Nat.zero_le _⟩
    refine ⟨fun p => ?_, rfl, Nat.zero_le _, fun _ => rfl, List.not_mem_nil, List.not_mem_nil⟩
    exact cold_forall (P := fun x => x.Orderly p) (fun _ => quiet _ _ _ _ p (by simp [Receiver.names]))
      (fun _ => quiet _ _ _ _ p (by simp [Receiver.names])) p
  all_goals first | exact i.setPort_same rfl rfl rfl | exact ⟨ports, refs, one, executing, requests, hands⟩

end Sys2Proof.Machine
end

section
/-! PROOFS. The pool's accounts through every step (R76, R77, R78). -/

namespace Sys2Proof.Machine

/-- The entries that name a descriptor, with those that have left their queue and not yet given up their reference. -/
def State.namedBy (s : State) (g : Held) (d : DescNo) : Nat := s.naming d + tally g.loose d

/-- The holders of a descriptor's RECEIVING reference, with the unit at work. -/
def State.heldBy (s : State) (g : Held) (d : DescNo) : Nat := s.holders d + tally g.hands d

/-- What O60 says of the pool, with what the unit at work holds. -/
def PoolHeld (s : State) (g : Held) : Prop := s.pool.Accounts (s.namedBy g) (s.heldBy g)

theorem poolHeld_iff (s : State) : PoolHeld s .nothing ↔ PoolSound s := by
  constructor
  · rintro ⟨sorted, cells, reply, each⟩
    exact ⟨sorted, cells, reply, each⟩
  · rintro ⟨sorted, cells, reply, each⟩
    exact ⟨sorted, cells, reply, each⟩

theorem State.naming_setPort (s : State) (p : Port) (x : PortState) (d : DescNo) :
    (s.setPort p x).naming d + (s.port p).naming d = s.naming d + x.naming d := by
  rw [naming_eq, naming_eq]
  exact s.total_setPort p x (·.naming d)

theorem State.holders_setPort (s : State) (p : Port) (x : PortState) (d : DescNo) :
    (s.setPort p x).holders d + (s.port p).holds d = s.holders d + x.holds d := by
  rw [holders_eq, holders_eq]
  have := s.total_setPort p x (·.holds d)
  rw [State.setPort_agent]
  omega

/-- A port with its queue, receiver and completions as they were names and holds what it did. -/
theorem PortState.naming_congr {x y : PortState} (h : y.scheduler.queue = x.scheduler.queue) (d : DescNo) :
    y.naming d = x.naming d := by unfold PortState.naming; rw [h]

theorem PortState.holds_congr {x y : PortState} (names : y.receiver.names = x.receiver.names)
    (completions : y.completions = x.completions) (d : DescNo) : y.holds d = x.holds d := by
  unfold PortState.holds PortState.handles; rw [names, completions]

theorem State.namedBy_eq (s : State) (g : Held) (d : DescNo) :
    s.namedBy g d = s.total (·.naming d) + tally g.loose d := by rw [State.namedBy, naming_eq]

theorem State.heldBy_eq (s : State) (g : Held) (d : DescNo) :
    s.heldBy g d = s.total (·.holds d) + tally s.agent.requests d + tally g.hands d := by rw [State.heldBy, holders_eq]

/-- A receiver that begins to hold a descriptor. -/
theorem State.holders_receiver {s : State} {p : Port} {d : DescNo} {b : Bool} (names : (s.port p).receiver.names = none)
    (k : DescNo) : (s.setPort p { s.port p with receiver := .inTelegram d b }).holders k = oneMore s.holders d k := by
  have holders := s.holders_setPort p { s.port p with receiver := .inTelegram d b } k
  have after : ({ s.port p with receiver := .inTelegram d b } : PortState).holds k = oneMore (s.port p).holds d k := by
    change tally (d :: _) k = _
    rw [tally_cons]
    unfold oneMore PortState.holds PortState.handles
    rw [names]
    rfl
  rw [after] at holders
  unfold oneMore at *
  omega

/-- A queue with one entry more. -/
theorem tally_queued_append (q : List QueueEntry) (e : QueueEntry) (d : DescNo) :
    tally (queued (q ++ [e])) d = oneMore (tally (queued q)) e.desc d := by
  rw [queued, List.map_append, tally_append, List.map_singleton, tally_cons]
  simp [oneMore, tally]

section
variable {s : State} {g h : Held} (i : PoolHeld s g)
include i

/-- The accounts of the same pool, whatever else has changed, where the counts are the same. -/
theorem PoolHeld.of_counts {t : State} (pool : t.pool = s.pool) (named : ∀ d, t.namedBy h d = s.namedBy g d)
    (held : ∀ d, t.heldBy h d = s.heldBy g d) : PoolHeld t h := by
  unfold PoolHeld
  rw [pool]
  exact Pool.Accounts.congr i (fun d _ => named d) fun d _ => held d

/-- A change of one port, where the counts are the same. -/
theorem PoolHeld.setPort {p : Port} {x : PortState}
    (named : ∀ d, x.naming d + tally h.loose d = (s.port p).naming d + tally g.loose d)
    (held : ∀ d, x.holds d + tally h.hands d = (s.port p).holds d + tally g.hands d) : PoolHeld (s.setPort p x) h := by
  refine i.of_counts rfl (fun d => ?_) fun d => ?_
  · have := s.naming_setPort p x d
    have := named d
    unfold State.namedBy
    omega
  · have := s.holders_setPort p x d
    have := held d
    unfold State.heldBy
    omega

theorem PoolHeld.setPort_same {p : Port} {x : PortState} (queue : x.scheduler.queue = (s.port p).scheduler.queue)
    (names : x.receiver.names = (s.port p).receiver.names) (completions : x.completions = (s.port p).completions) :
    PoolHeld (s.setPort p x) g :=
  i.setPort (fun d => congrArg (· + _) (PortState.naming_congr queue d))
    fun d => congrArg (· + _) (PortState.holds_congr names completions d)

/-- An entry joins a queue, its telegram held by the unit at work, or the management reply (R85). -/
theorem PoolHeld.join {p : Port} {e : QueueEntry} (used : e.desc ≠ 0 → e.desc ∈ g.hands) : PoolHeld (s.join p e) g := by
  have added : (s.pool.addRef e.desc).Accounts (oneMore (s.namedBy g) e.desc) (s.heldBy g) :=
    Pool.Accounts.addRef i fun general => (tally_pos (used general)).trans (Nat.le_add_left _ _)
  have longer := tally_queued_append (s.scheduler p).queue e
  have moved := fun f => (s.withPool (s.pool.addRef e.desc)).total_setPort p
      { s.port p with scheduler := { s.scheduler p with queue := (s.scheduler p).queue ++ [e] } } f
  refine Pool.Accounts.congr added (fun d _ => ?_) fun d _ => ?_
  · have named : (s.join p e).total (·.naming d) + tally (queued (s.scheduler p).queue) d
        = s.total (·.naming d) + tally (queued ((s.scheduler p).queue ++ [e])) d := moved (·.naming d)
    rw [longer] at named
    unfold oneMore at *
    rw [State.namedBy_eq, State.namedBy_eq]
    omega
  · have held : (s.join p e).total (·.holds d) + (s.port p).holds d = s.total (·.holds d) + (s.port p).holds d :=
      moved (·.holds d)
    have requests : (s.join p e).agent.requests = s.agent.requests := rfl
    rw [State.heldBy_eq, State.heldBy_eq, requests]
    omega

end

/-- What O60 needs of a state between two moves. -/
def StorageHeld (s : State) (g : Held) : Prop := QueuesHeld s g ∧ DownSilent s g ∧ PoolHeld s g

theorem PortState.warm_names (x : PortState) : x.warm.receiver.names = none := by
  unfold PortState.warm
  dsimp only
  split <;> rfl

/-- Nothing is named or held where every port is empty and no request is handed over. -/
theorem poolHeld_of_idle {s : State} {cells : List Host.Cell} (pool : s.pool = freePool cells)
    (ports : ∀ p, (s.port p).scheduler.queue = [] ∧ (s.port p).receiver.names = none ∧ (s.port p).completions = [])
    (requests : s.agent.requests = []) : PoolHeld s .nothing := by
  have zero : ∀ {f : PortState → Nat}, (∀ p, f (s.port p) = 0) → s.total f = 0 := fun h => by
    unfold State.total Port.all
    simp only [List.map_cons, List.map_nil, List.sum_cons, List.sum_nil, h, Nat.add_zero]
  unfold PoolHeld
  rw [pool]
  refine (freePool_accounts cells).congr (fun d _ => ?_) fun d _ => ?_
  · rw [State.namedBy, naming_eq, zero fun p => by rw [PortState.naming, (ports p).1]; rfl]
    rfl
  · rw [State.heldBy, holders_eq, requests, zero fun p => by
      rw [PortState.holds, PortState.handles, (ports p).2.1, (ports p).2.2]; rfl]
    rfl

theorem Move.poolHeld {s t : State} {g h : Held} (m : Move s g t h) (queues : QueuesHeld s g) (silent : DownSilent s g)
    (i : PoolHeld s g) : PoolHeld t h := by
  cases m
  case line p x same _ => exact i.setPort_same (by rw [same]; rfl) (by rw [same]; rfl) (by rw [same]; rfl)
  case receiver names _ => exact i.setPort_same rfl names rfl
  case close p c isOpen =>
    refine i.setPort (fun _ => rfl) fun d => congrArg (· + _) ?_
    unfold PortState.holds PortState.handles
    rw [List.flatMap_append, tally_append, tally_append, tally_append, ← openCompletion_desc isOpen]
    simp only [Receiver.names, Option.toList_none, List.flatMap_singleton, tally, List.filter_nil, List.length_nil]
    omega
  case letGo hs l u p d b held =>
    refine i.setPort (fun _ => rfl) fun k => ?_
    have before : (s.port p).holds k = oneMore (tally ((s.port p).completions.flatMap fun c => c.desc.toList)) d k := by
      unfold PortState.holds PortState.handles
      rw [held]
      exact tally_cons d _ k
    have after : ({ s.port p with receiver := .off } : PortState).holds k
      = tally ((s.port p).completions.flatMap fun c => c.desc.toList) k := rfl
    simp only [before, after, tally_cons, oneMore]
    omega
  case takeCompletion hs l u p c rest raised =>
    refine i.setPort (fun _ => rfl) fun k => ?_
    unfold PortState.holds PortState.handles
    rw [raised, List.flatMap_cons]
    simp only [tally_append]
    omega
  case openTelegram p a dm d b q idle taken =>
    refine Pool.Accounts.congr (Pool.Accounts.openTelegram i taken) (fun k _ => ?_) fun k _ => ?_
    · have := (s.withPool q).naming_setPort p { s.port p with receiver := .inTelegram d b } k
      unfold State.namedBy
      exact congrArg (· + _) (Nat.add_right_cancel this)
    · have names : ((s.withPool q).port p).receiver.names = none := by
        change (s.port p).receiver.names = none
        rw [idle]; rfl
      have held := State.holders_receiver (s := s.withPool q) (p := p) (d := d) (b := b) names k
      refine (congrArg (· + tally g.hands k) held).trans ?_
      have holders : (s.withPool q).holders = s.holders := rfl
      simp only [State.heldBy, oneMore, holders]
      omega
  case damage d dm => exact Pool.Accounts.recordDamage i d dm
  case storeBody p d b c held =>
    have names : (s.port p).receiver.names = some d := by rw [held]; rfl
    have general : d ≠ 0 := fun e => (queues.ports p).receiver (e ▸ names)
    refine Pool.Accounts.storeBody i general ?_ c
    have held : 1 ≤ (s.port p).holds d := by
      refine tally_pos ?_
      unfold PortState.handles
      rw [names]
      exact List.mem_cons_self
    have := s.holders_setPort p { s.port p with receiver := .off, completions := [] } d
    have none : ({ s.port p with receiver := .off, completions := [] } : PortState).holds d = 0 := rfl
    unfold State.heldBy
    omega
  case fillStandIn hs l u d c q r cs wide free cell =>
    refine Pool.Accounts.congr (Pool.Accounts.fillStandIn i free cell r cs wide) (fun _ _ => rfl) fun k _ => ?_
    have holders : (s.withPool (q.fillStandIn d c r cs wide)).holders k = s.holders k := rfl
    simp only [State.heldBy, tally_cons, oneMore, holders]
    omega
  case giveUp hs l u d =>
    have general : d ≠ 0 := fun e => queues.hands (e ▸ List.mem_cons_self)
    refine Pool.Accounts.giveUp (Pool.Accounts.congr i (fun _ _ => rfl) fun k _ => ?_) general
    have holders : (s.withPool (s.pool.giveUp d)).holders k = s.holders k := rfl
    simp only [State.heldBy, tally_cons, oneMore, holders]
    omega
  case dropRef hs l u d =>
    refine Pool.Accounts.dropRef (Pool.Accounts.congr i (fun k _ => ?_) fun _ _ => rfl)
    have naming : (s.withPool (s.pool.dropRef d)).naming k = s.naming k := rfl
    simp only [State.namedBy, tally_cons, oneMore, naming]
    omega
  case scheduler queue _ => exact i.setPort_same queue rfl rfl
  case start names => exact i.setPort_same rfl names.symm rfl
  case join held => exact i.join fun _ => held
  case reply rid a _ =>
    have written : PoolHeld (s.replyWritten rid a) g := Pool.Accounts.writeReply i s.mgmtAddress (s.replyChars rid a)
    exact written.join fun general => absurd rfl general
  case replay => exact i.join fun general => absurd rfl general
  case leave hs l u p c es queue phase =>
    refine i.setPort (fun d => ?_) fun _ => rfl
    have named := tally_perm (queue.map QueueEntry.desc) d
    rw [List.map_append, tally_append] at named
    rw [tally_append]
    unfold PortState.naming
    rw [State.scheduler_def] at named
    unfold queued
    dsimp only at *
    omega
  case thinned m _ =>
    rcases settleDepth_cases (s.withTable m) with e | ⟨d, _, _, e⟩ <;> rw [e]
    · exact i
    · exact PoolHeld.setPort_same (s := (s.withTable m).withTrunk { s.trunk with pendingDepth := none }) i rfl rfl rfl
  case down p a _ _ _ => exact i.setPort (fun _ => rfl) fun _ => rfl
  case activate p _ down =>
    have off := (silent.2 p nofun down).1.2.2
    exact i.setPort_same rfl (by rw [off]; rfl) rfl
  case install f _ =>
    rcases formatInstalled_cases s f with ⟨_, e⟩ | ⟨_, e⟩ <;> rw [e]
    · exact PoolHeld.setPort_same (s := s.withTrunk { s.trunk with pendingFormat := none, pendingDepth := none }) i rfl rfl rfl
    · exact PoolHeld.setPort_same (s := s.withTrunk { s.trunk with pendingFormat := none, pendingDepth := some f.overlap }) i
        rfl rfl rfl
  case agent a _ requests _ =>
    refine i.of_counts rfl (fun _ => rfl) fun d => ?_
    have total : (s.withAgent a).total (·.holds d) = s.total (·.holds d) := rfl
    rw [State.heldBy_eq, State.heldBy_eq, total, requests]
  case hand hs l u d =>
    refine i.of_counts rfl (fun _ => rfl) fun k => ?_
    have total : (s.withAgent { s.agent with requests := s.agent.requests ++ [d] }).total (·.holds k)
      = s.total (·.holds k) := rfl
    rw [State.heldBy_eq, State.heldBy_eq, total]
    dsimp only
    rw [tally_append, tally_cons d hs, tally_cons d []]
    simp only [oneMore, tally, List.filter_nil, List.length_nil]
    omega
  case takeRequest hs l u d rest handed =>
    refine i.of_counts rfl (fun _ => rfl) fun k => ?_
    have total : (s.withAgent { s.agent with requests := rest }).total (·.holds k) = s.total (·.holds k) := rfl
    rw [State.heldBy_eq, State.heldBy_eq, total, handed]
    dsimp only
    rw [tally_cons d hs, tally_cons d rest]
    unfold oneMore
    omega
  case warm =>
    refine poolHeld_of_idle rfl (fun p => ?_) rfl
    exact warmed_forall (P := fun x => x.scheduler.queue = [] ∧ x.receiver.names = none ∧ x.completions = [])
      (fun q => ⟨rfl, PortState.warm_names _, rfl⟩) ⟨rfl, PortState.warm_names _, rfl⟩ p
  case cold =>
    refine poolHeld_of_idle rfl (fun p => ?_) rfl
    exact cold_forall (P := fun x => x.scheduler.queue = [] ∧ x.receiver.names = none ∧ x.completions = [])
      (fun _ => ⟨rfl, rfl, rfl⟩) (fun _ => ⟨rfl, rfl, rfl⟩) p
  all_goals first | exact i | exact i.setPort_same rfl rfl rfl

theorem Move.storageHeld {s t : State} {g h : Held} (m : Move s g t h) : StorageHeld s g → StorageHeld t h :=
  fun ⟨queues, silent, i⟩ => ⟨m.queuesHeld queues, m.downSilent silent, m.poolHeld queues silent i⟩

/-- Settles O60: an entry counts its reference in the move in which it joins or, having left, is dropped, and a holder
passes a RECEIVING reference on or gives it up. -/
theorem stepKeepsQueuesSound : Obligations.StepKeepsQueuesSound := by
  have pending : ∀ {s : State} {g : Held} (l : List Instr), QueuesHeld s g → QueuesHeld { s with pending := l } g :=
    fun _ ⟨ports, refs, one, executing, requests, hands⟩ => ⟨ports, refs, one, executing, requests, hands⟩
  refine ⟨fun s t h i => ?_, fun s t h queues silent i => ?_⟩
  · exact (queuesHeld_iff t).mp (step_invariant (I := QueuesHeld) Move.queuesHeld pending h ((queuesHeld_iff s).mpr i))
  · have kept := step_invariant (I := StorageHeld) Move.storageHeld (fun l ⟨q, d, i⟩ => ⟨pending l q, d, i⟩) h
      ⟨(queuesHeld_iff s).mpr queues, (downSilent_iff s).mpr silent, (poolHeld_iff s).mpr i⟩
    exact (poolHeld_iff t).mp kept.2.2

end Sys2Proof.Machine
end

section
/-! PROOFS. The step, cold reset, the state after power-on, and the events of a line alone. -/

namespace Sys2Proof.Machine

/-- Settles O1. -/
theorem stepRunsFrontCommand : Obligations.StepRunsFrontCommand := by
  intro s c rest waiting
  unfold step
  rw [waiting]

/-! ### Cold reset -/

theorem freePool_refs (cells : List Host.Cell) (d : DescNo) : ((freePool cells).descriptor d).refs = 0 := by
  by_cases e : d = 0
  · subst e; rfl
  · rw [freePool_descriptor cells e]; rfl

theorem mem_generalCells (c : CellNo) : c ∈ generalCells ↔ 8 ≤ c.val := by
  unfold generalCells
  rw [List.mem_drop_iff_getElem]
  constructor
  · rintro ⟨i, _, rfl⟩
    rw [List.getElem_finRange]
    exact Nat.le_add_right _ _
  · intro low
    have high : c.val < 128 := c.isLt
    refine ⟨c.val - 8, by rw [List.length_finRange]; omega, ?_⟩
    rw [List.getElem_finRange]
    exact Fin.ext (by change 8 + (c.val - 8) = c.val; omega)

theorem freePool_freeDescriptorCount (cells : List Host.Cell) : (freePool cells).freeDescriptorCount = 47 := by
  have general : ∀ d : DescNo, decide (d ≠ 0 ∧ ((freePool cells).descriptor d).state = .free) = decide (d ≠ 0) := fun d => by
    by_cases e : d = 0
    · simp [e]
    · simp [e, freePool_descriptor cells e, freeDescriptor]
  unfold Pool.freeDescriptorCount
  rw [List.filter_congr fun d _ => general d]
  decide

theorem mgmtAddress_toNat (s : State) : s.mgmtAddress.toNat = 0xF0 + s.straps.maddr.toNat := by
  have := s.straps.maddr.isLt
  unfold State.mgmtAddress
  rw [BitVec.toNat_add, BitVec.zeroExtend_eq_setWidth, BitVec.toNat_setWidth]
  change (0xF0 + s.straps.maddr.toNat % 2 ^ 8) % 2 ^ 8 = _
  omega

/-- Settles O3: the state that a cold reset writes, field by field. -/
theorem coldResetEffect : Obligations.ColdResetEffect := by
  intro maddr tbaud s
  refine ⟨_, rfl, mgmtAddress_toNat _, rfl, rfl, ⟨rfl, rfl, rfl, rfl⟩, ⟨rfl, rfl⟩,
    ⟨freePool_freeDescriptorCount _, rfl, mem_generalCells, rfl, freePool_refs _⟩, fun p => ?_,
    ⟨rfl, rfl, rfl, rfl, rfl, rfl⟩, rfl, rfl, rfl⟩
  cases p <;> exact ⟨rfl, rfl, rfl, rfl, rfl, rfl, rfl, rfl, rfl, rfl, rfl, rfl, rfl, rfl, rfl, rfl, rfl, rfl⟩

/-- What a port is after a cold reset, for the invariants. -/
theorem reset_forall {P : PortState → Prop} (trunk : P (coldTrunk 0 .mark)) (branch : P (coldBranch .mark)) (p : Port) :
    P (State.reset.port p) := by
  cases p with
  | trunk => exact trunk
  | b1 | b2 | b3 | b4 => exact branch

theorem reset_queuesHeld : QueuesHeld State.reset .nothing := by
  refine ⟨fun p => ?_, rfl, Nat.zero_le _, fun _ => rfl, List.not_mem_nil, List.not_mem_nil⟩
  refine reset_forall (P := fun x => x.Orderly p) ?_ ?_ p
  all_goals exact ⟨fun _ hc => absurd hc List.not_mem_nil, by decide, fun _ => ⟨Nat.zero_le _, rfl⟩, fun _ => Nat.zero_le _⟩

theorem reset_poolHeld : PoolHeld State.reset .nothing :=
  poolHeld_of_idle rfl (fun p => reset_forall
    (P := fun x => x.scheduler.queue = [] ∧ x.receiver.names = none ∧ x.completions = []) ⟨rfl, rfl, rfl⟩ ⟨rfl, rfl, rfl⟩ p) rfl

theorem reset_downSilent : DownSilent State.reset .nothing := by
  refine ⟨rfl, fun p _ => ?_⟩
  exact reset_forall (P := fun x => x.admin ≠ .active → x.Quieted ∧ State.reset.exchanges.Clear p)
    (fun down => absurd rfl down) (fun _ => ⟨⟨rfl, rfl, rfl⟩, .of_empty rfl p⟩) p

/-- Settles O4: every block of the reset state is empty, FREE or at its default. -/
theorem resetStateIsColdAndSound : Obligations.ResetStateIsColdAndSound := by
  have zero : zeroCounters.Bounded := by unfold Counters.Bounded; decide
  refine ⟨rfl, reset_cellsWf, Nat.zero_le _, ⟨rfl, rfl, of_absent⟩, ?_, ⟨?_, of_absent, of_absent, defaultSettings_inRanges⟩,
    ⟨Nat.zero_le _, .nil⟩, (downSilent_iff _).mp reset_downSilent, ⟨.nil, .nil, nofun⟩, (queuesHeld_iff _).mp reset_queuesHeld,
    (poolHeld_iff _).mp reset_poolHeld, ?_, ⟨fun _ => Nat.zero_le _, of_absent⟩⟩
  · exact reset_forall (P := fun x => x.counters.Bounded) zero zero
  · exact reset_forall (P := fun x => x.format.inRanges = true) (preset_inRanges 0) (preset_inRanges 0)
  · exact reset_forall (P := PortState.Seen) (fun _ => LineMonitor.noConfusion) fun _ => LineMonitor.noConfusion

/-! ### The line -/

/-- What a mark seen on a line does to its port (R127, R130, R142). -/
def PortState.markSeen (x : PortState) : PortState :=
  { x with
    rxPin := .mark
    spaceSpan := 0
    spaceCount := 0
    limitReached := false
    monitor := if x.monitor = .spaceHeld then .busy else x.monitor
    markSpan := if x.monitor = .spaceHeld then 0 else x.markSpan
    charReceiver := if x.charReceiver = .awaitMark then .awaitStart else x.charReceiver }

/-- A mark seen on a line arms the trunk's break (R132). -/
theorem readMark_eq (s : State) (p : Port) : s.readMark p = (s.setPort p (s.port p).markSeen).withTrunk
    { s.trunk with breakState := if p = .trunk then .armed else s.trunk.breakState } := by
  cases p <;> rfl

theorem readMark_port (s : State) (p : Port) : (s.readMark p).port p = (s.port p).markSeen := by
  rw [readMark_eq]
  exact State.setPort_port s p _

theorem readMark_port_other (s : State) {p q : Port} (h : q ≠ p) : (s.readMark p).port q = s.port q := by
  rw [readMark_eq]
  exact State.setPort_port_other s _ h

/-- Settles O6: both events are a change of the port's line alone, and of the trunk's break. -/
theorem lineLevelEvents : Obligations.LineLevelEvents := by
  refine ⟨fun p s => ?_, fun p s => ?_⟩
  · refine ⟨_, rfl, ?_, ?_, ?_, ?_, ?_⟩ <;> rw [State.onPort_port]
    · rfl
    · rfl
    · unfold PortState.edge
      change (if (s.port p).monitor = .released then LineMonitor.busy else (s.port p).monitor) = .spaceHeld ↔ _
      cases (s.port p).monitor <;> decide
    · exact PortState.edge_seen _
    · cases (s.port p).charReceiver <;> simp
  · refine ⟨_, rfl, ?_, ?_, fun held => ?_, fun free => ?_, ?_, fun trunk => ?_, fun branch => ?_⟩
    · rw [readMark_port, readMark_eq]
    · rw [readMark_port]; rfl
    · rw [readMark_port]; simp [PortState.markSeen, held]
    · rw [readMark_port]; simp [PortState.markSeen, free]
    · rw [readMark_port]; rfl
    · rw [readMark_eq, if_pos trunk]
    · rw [readMark_eq, if_neg branch]

/-- Settles O7: a false start is a mark seen and the wait for an edge; SPACE_HELD is a change of the monitor. -/
theorem falseStartAndHeldSpace : Obligations.FalseStartAndHeldSpace := by
  refine ⟨fun p s f tick ls inStart free => ?_, fun p s space busy => ?_⟩
  · have taken : exec (.falseStart p) s = .next ((s.readMark p).onPort p fun x => { x with charReceiver := .awaitStart }) := by
      have start : (s.port p).charReceiver.inStartBit = true := by rw [inStart]; rfl
      change execFalseStart p s = _
      rw [execFalseStart, if_pos start]
    refine ⟨_, taken, ?_, fun q other => ?_, ?_, ?_, ?_, ?_, ?_, ?_⟩
    · rw [State.onPort_port, readMark_port, PortState.markSeen]
      simp only [free, if_false]
    · rw [State.onPort_port_other _ _ other, readMark_port_other s other]
    all_goals rw [readMark_eq]
    · exact ⟨rfl, rfl, rfl, rfl, rfl, rfl⟩
    all_goals rfl
  · have taken : exec (.spaceHeld p) s = .next (s.onPort p fun x =>
        { x with monitor := .spaceHeld, spaceSpan := max x.spaceSpan (x.format.charTime + 1) }) := by
      change execSpaceHeld p s = _
      rw [execSpaceHeld]
      exact if_pos ⟨space, busy⟩
    refine ⟨_, taken, ?_, ?_⟩ <;> rw [State.onPort_port]
    · rfl
    · exact Nat.lt_of_succ_le (Nat.le_max_right _ _)

/-- Settles O21: the end of a cut character ends its attempt. -/
theorem driverReleaseAfterCut : Obligations.DriverReleaseAfterCut := by
  intro p s f i bit tick ls cut
  have isCut : (s.port p).transmitter.isCut = true := by rw [cut]; rfl
  refine ⟨_, if_pos isCut, ?_, ?_, ?_, ?_, fun k echo => ?_, fun other => ?_⟩
  all_goals rw [State.onPort_port]
  · rfl
  · rfl
  · rfl
  · exact PortState.characterEnded_seen _ 0
  · rw [echo]
  · cases r : (s.port p).receiver with
    | echo k => exact absurd r (other k)
    | _ => rfl

/-! ### The status character (R181) -/

theorem anyFaulted_iff (s : State) : s.anyFaulted = true ↔ ∃ p, p ≠ .trunk ∧ (s.port p).admin = .faulted := by
  unfold State.anyFaulted
  rw [List.any_eq_true]
  simp only [Port.mem_all, true_and, Bool.and_eq_true, decide_eq_true_eq, isBranch_iff]

/-- The flags of the status character stand in its bits 7 to 3 and the shadow state's code below them. -/
theorem statusChar_bits : ∀ (forwarding notices faulted restarted records : Bool) (code : Fin 8),
    let c := natChr (128 * forwarding.toNat + 64 * notices.toNat + 32 * faulted.toNat + 16 * restarted.toNat
      + 8 * records.toNat + code.val)
    c.getLsbD 7 = forwarding ∧ c.getLsbD 6 = notices ∧ c.getLsbD 5 = faulted ∧ c.getLsbD 4 = restarted
      ∧ c.getLsbD 3 = records ∧ c.toNat % 8 = code.val := by decide

/-- Settles O35. -/
theorem statusCharacterBits : Obligations.StatusCharacterBits := by
  intro s
  have code : s.routes.shadow.code < 8 := by cases s.routes.shadow <;> decide
  obtain ⟨forwarding, notices, faulted, restarted, records, low⟩ :=
    statusChar_bits s.agent.forwarding (!s.notices.records.isEmpty) s.anyFaulted s.agent.restartSeen
      (!s.exchanges.records.isEmpty) ⟨_, code⟩
  refine ⟨forwarding, ?_, ?_, restarted, ?_, low.trans ?_⟩
  · exact (Bool.eq_iff_iff.mp notices).trans (by simp)
  · exact (Bool.eq_iff_iff.mp faulted).trans (anyFaulted_iff s)
  · exact (Bool.eq_iff_iff.mp records).trans (by simp)
  · change s.routes.shadow.code = _
    cases s.routes.shadow <;> rfl

end Sys2Proof.Machine
end

section
/-! PROOFS. What deciding completions leaves as it was, and the warm restart after it. -/

namespace Sys2Proof.Machine

/-! ### Deciding completions (chapter 2) -/

/-- A port's fields that no decision of a completion changes. -/
structure PortState.Untouched (x y : PortState) : Prop where
  admin : y.admin = x.admin
  lastFault : y.lastFault = x.lastFault
  monitor : y.monitor = x.monitor
  tx : y.counters.txTelegrams = x.counters.txTelegrams
  collisions : y.counters.collisions = x.counters.collisions

/-- What deciding completions can change, said once: besides a ripple, the receive counters, the count reports and the
requests handed over. -/
structure Admitted (s t : State) : Prop where
  ports : ∀ p, (s.port p).Untouched (t.port p)
  formats : ∀ p, p ≠ .trunk → (t.port p).format = (s.port p).format
  trunk : t.trunk = { s.trunk with pendingDepth := t.trunk.pendingDepth }
  tickCount : t.exchanges.tickCount = s.exchanges.tickCount
  routes : t.routes = { s.routes with countReports := t.routes.countReports }
  agent : t.agent = { s.agent with requests := t.agent.requests }
  straps : t.straps = s.straps
  pending : t.pending = s.pending

theorem Admitted.refl (s : State) : Admitted s s :=
  ⟨fun _ => ⟨rfl, rfl, rfl, rfl, rfl⟩, fun _ _ => rfl, rfl, rfl, rfl, rfl, rfl, rfl⟩

theorem Admitted.trans {s t u : State} (a : Admitted s t) (b : Admitted t u) : Admitted s u := by
  refine ⟨fun p => ?_, fun p h => (b.formats p h).trans (a.formats p h), by rw [b.trunk, a.trunk],
    b.tickCount.trans a.tickCount, by rw [b.routes, a.routes], by rw [b.agent, a.agent], b.straps.trans a.straps,
    b.pending.trans a.pending⟩
  obtain ⟨a1, a2, a3, a4, a5⟩ := a.ports p
  obtain ⟨b1, b2, b3, b4, b5⟩ := b.ports p
  exact ⟨b1.trans a1, b2.trans a2, b3.trans a3, b4.trans a4, b5.trans a5⟩

theorem Ripple.admitted {s t : State} (h : Ripple s t) : Admitted s t := by
  refine ⟨fun p => ?_, h.formats, h.trunk, h.tickCount, by rw [h.routes], by rw [h.agent], h.straps, h.pending⟩
  obtain ⟨admin, lastFault, monitor, _, counters, _, _, _, _⟩ := h.kept p
  exact ⟨admin, lastFault, monitor, by rw [counters], by rw [counters]⟩

theorem Admitted.setPort {s : State} {p : Port} {x : PortState} (h : (s.port p).Untouched x)
    (format : x.format = (s.port p).format) : Admitted s (s.setPort p x) := by
  refine ⟨fun q => ?_, fun q _ => ?_, rfl, rfl, rfl, rfl, rfl, rfl⟩
  · by_cases e : q = p
    · subst e; rw [State.setPort_port]; exact h
    · rw [State.setPort_port_other _ _ e]; exact ⟨rfl, rfl, rfl, rfl, rfl⟩
  · by_cases e : q = p
    · subst e; rw [State.setPort_port]; exact format
    · rw [State.setPort_port_other _ _ e]

section
variable (s : State) (p : Port) (c : Completion)

theorem finishCompletion_ripple : Ripple s (s.finishCompletion c) := by
  unfold State.finishCompletion
  split
  · exact .pool s _
  · exact .refl s

theorem countDiscarded_admitted : Admitted s (s.count p .addRxDiscarded) := .setPort ⟨rfl, rfl, rfl, rfl, rfl⟩ rfl

theorem discardCompletion_admitted : Admitted s (s.discardCompletion p c) :=
  (countDiscarded_admitted s p).trans (finishCompletion_ripple _ c).admitted

theorem endOffer_admitted {o : State × Bool} (h : Admitted s o.1) : Admitted s (State.endOffer o p c) := by
  unfold State.endOffer
  split
  · exact h.trans (finishCompletion_ripple _ c).admitted
  · exact h.trans (discardCompletion_admitted _ p c)

theorem reportDamaged_ripple : Ripple s (s.reportDamaged p c) := by
  have late : Ripple s (s.post .lateReply (some p) (some c.address) none) := .post s _ _ _ _
  unfold State.reportDamaged
  dsimp only
  split
  · split
    · exact closeExchange_ripple s _ _
    · split
      · exact late.trans (freeRecord_ripple _ p c.address)
      · exact .ite late (.refl s)
  · exact .ite late (.refl s)

theorem postDamage_ripple : Ripple s (s.postDamage p c) := by
  unfold State.postDamage
  split
  all_goals first | exact .refl s | exact .post s _ _ _ _

theorem handleMiss_admitted (d : DescNo) : Admitted s (s.handleMiss p c d) := by
  have discarded := discardCompletion_admitted s p c
  unfold State.handleMiss
  split
  · exact discarded
  · exact (Ripple.post s _ _ _ _).admitted.trans (discardCompletion_admitted _ p c)
  · split
    · exact discarded
    · exact endOffer_admitted s p c (offerTo_ripple s .trunk _ _).admitted

theorem handleHit_admitted (d : DescNo) (e : RouteEntry) (bank : BankId) : Admitted s (s.handleHit p c d e bank) := by
  unfold State.handleHit
  extract_lets entry o t
  have offered : Admitted s t := endOffer_admitted s p c (offerAll_ripple entry c.wide _ s).admitted
  clear_value t
  split
  · exact offered.trans ⟨fun _ => ⟨rfl, rfl, rfl, rfl, rfl⟩, fun _ _ => rfl, rfl, rfl, rfl, rfl, rfl, rfl⟩
  · exact offered

theorem routeTelegram_admitted (d : DescNo) : Admitted s (s.routeTelegram p c d) := by
  unfold State.routeTelegram
  split
  · exact handleHit_admitted s p c d _ _
  · exact discardCompletion_admitted s p c
  · exact handleMiss_admitted s p c d

theorem carryReply_admitted (d : DescNo) (r : ExchangeRecord) : Admitted s (s.carryReply p c d r) :=
  endOffer_admitted s p c (((freeRecord_ripple s p c.address).trans (offerTo_ripple _ _ _ _)).admitted)

theorem admitWhole_admitted (d : DescNo) : Admitted s (s.admitWhole p c d) := by
  have routed : Admitted s (if s.agent.forwarding then s.routeTelegram p c d else s.discardCompletion p c) := by
    split
    · exact routeTelegram_admitted s p c d
    · exact discardCompletion_admitted s p c
  unfold State.admitWhole
  split
  · exact ⟨fun _ => ⟨rfl, rfl, rfl, rfl, rfl⟩, fun _ _ => rfl, rfl, rfl, rfl, rfl, rfl, rfl⟩
  · split
    · split
      · exact carryReply_admitted s p c d _
      · exact routed
    · exact routed

theorem classify_admitted : Admitted s (s.classify p c) := by
  have counted : Admitted s (s.count p .addRxTelegram) := .setPort ⟨rfl, rfl, rfl, rfl, rfl⟩ rfl
  have damaged := (counted.trans ((reportDamaged_ripple _ p c).trans (postDamage_ripple _ p c)).admitted).trans
    (discardCompletion_admitted _ p c)
  unfold State.classify
  dsimp only
  split
  · exact counted.trans (admitWhole_admitted _ p c _)
  · exact damaged
  · exact damaged

theorem takeCompletion_admitted : Admitted s (s.takeCompletion p) := by
  unfold State.takeCompletion
  split
  · exact .refl s
  · next c rest _ =>
    have taken : Admitted s (s.setPort p { s.port p with completions := rest }) := .setPort ⟨rfl, rfl, rfl, rfl, rfl⟩ rfl
    exact taken.trans (classify_admitted _ p c)

end

theorem decideRaised_admitted (n : Nat) : ∀ s : State, Admitted s (State.decideRaised n s) := by
  induction n with
  | zero => exact .refl
  | succ n ih =>
    intro s
    unfold State.decideRaised
    split
    · exact (takeCompletion_admitted s _).trans (ih _)
    · exact .refl s

/-- With no completion raised there is none to decide. -/
theorem decideRaised_none {s : State} (h : Port.all.all (fun p => (s.port p).completions.isEmpty) = true) (n : Nat) :
    State.decideRaised n s = s := by
  have none : s.waitingPort = none := by
    unfold State.waitingPort
    rw [List.find?_eq_none]
    intro p hp
    rw [List.all_eq_true.mp h p hp]
    decide
  cases n with
  | zero => rfl
  | succ n => unfold State.decideRaised; rw [none]

/-! ### The warm restart -/

theorem bump_eq_min {n : Nat} (h : n ≤ 65535) : bump n = min 65535 (n + 1) := by
  unfold bump
  rw [show Config.counterMax = 65535 from rfl]
  split <;> omega

theorem withDepth_eq (f : FormatRecord) (depth : Option Nat) :
    f.withDepth depth = { f with overlap := match depth with | some d => d | none => f.overlap } := by
  cases depth <;> rfl

theorem PortState.warm_cut (x : PortState) : PortCut x x.warm := by
  refine ⟨rfl, fun bounded => ?_, rfl, rfl, rfl, rfl⟩
  unfold AbandonCounted PortState.warm
  dsimp only
  cases x.receiver <;> simp only [Counters.addRxDiscarded, bump_eq_min bounded]

theorem warmRestart_restarted (s : State) : RestartedWarm s s.warmRestart := by
  rw [warmRestart_eq]
  have a := decideRaised_admitted s.raisedBound s
  generalize State.decideRaised s.raisedBound s = u at a ⊢
  have routes := a.routes
  refine ⟨?_, ⟨rfl, rfl⟩, ?_, ⟨rfl, rfl, a.tickCount⟩, ⟨freePool_freeDescriptorCount _, rfl, freePool_refs _⟩, fun p => ?_,
    a.straps, a.pending⟩
  · change u.agent.warm = _
    rw [a.agent]
    rfl
  · refine ⟨?_, ?_, ?_, ?_⟩
    · change u.routes.first = _
      rw [routes]
    · change u.routes.second = _
      rw [routes]
    · change u.routes.active = _
      rw [routes]
    · change u.routes.shadow.afterWarm = _
      rw [routes]
  · obtain ⟨admin, lastFault, _, _, _⟩ := a.ports p
    rw [State.scheduler_def, warmed_port]
    split
    · next e => exact ⟨rfl, rfl, admin, lastFault, by rw [← admin]; rfl, fun branch => absurd e branch⟩
    · exact ⟨rfl, rfl, admin, lastFault, by rw [← admin]; rfl, a.formats p⟩

/-- With no completion raised, a warm restart is what `warmed` says. -/
theorem warmRestart_plain {s : State} (none : Port.all.all (fun p => (s.port p).completions.isEmpty) = true) :
    s.warmRestart = s.warmed := by
  rw [warmRestart_eq, decideRaised_none none]

theorem warmed_plain (s : State) : RestartedPlain s s.warmed ∧ PortCut (s.port .trunk) (s.warmed.port .trunk) := by
  refine ⟨⟨rfl, rfl, ?_, fun p branch => ?_⟩, ?_⟩
  · exact withDepth_eq _ _
  · rw [warmed_port, if_neg branch]
    exact ⟨PortState.warm_cut _, rfl⟩
  · have cut := PortState.warm_cut (s.port .trunk)
    exact cut

theorem warmRestart_trunk (s : State) : s.warmRestart.trunk = ⟨none, none, s.trunk.breakState⟩ := by
  rw [warmRestart_eq]
  have trunk := (decideRaised_admitted s.raisedBound s).trunk
  change TrunkState.mk none none (State.decideRaised _ s).trunk.breakState = _
  rw [trunk]

/-- A warm restart moves no transmit counter (R161). -/
theorem warmRestart_counters (s : State) (p : Port) :
    (s.warmRestart.port p).counters.txTelegrams = (s.port p).counters.txTelegrams
      ∧ (s.warmRestart.port p).counters.collisions = (s.port p).counters.collisions := by
  have warm : ∀ x : PortState, x.warm.counters.txTelegrams = x.counters.txTelegrams
      ∧ x.warm.counters.collisions = x.counters.collisions := fun x => by
    unfold PortState.warm
    dsimp only
    cases x.receiver <;> exact ⟨rfl, rfl⟩
  obtain ⟨_, _, _, tx, collisions⟩ := (decideRaised_admitted s.raisedBound s).ports p
  rw [warmRestart_eq, warmed_port]
  split
  · exact ⟨(warm _).1.trans tx, (warm _).2.trans collisions⟩
  · exact ⟨(warm _).1.trans tx, (warm _).2.trans collisions⟩

/-- A notice posted after a restart is no part of what the restart leaves. -/
theorem RestartedWarm.post {s t : State} (h : RestartedWarm s t) (k : NoticeKind) (port : Option Port) (a : Option Chr)
    (d : Option Word16) : RestartedWarm s (t.post k port a d) := by
  obtain ⟨agent, formats, routes, exchanges, pool, ports, straps, pending⟩ := h
  exact ⟨agent, formats, routes, exchanges, pool, ports, straps, pending⟩

theorem RestartedPlain.post {s t : State} (h : RestartedPlain s t) (k : NoticeKind) (port : Option Port) (a : Option Chr)
    (d : Option Word16) : RestartedPlain s (t.post k port a d) := by
  obtain ⟨cells, reports, format, branches⟩ := h
  exact ⟨cells, reports, format, branches⟩

/-- The state as the break finds it: counted out, and the break SPENT (R132). -/
def State.broken (s : State) : State :=
  (s.setPort .trunk { s.port .trunk with
    spaceCount := max (s.port .trunk).spaceCount s.agent.settings.breakLength, limitReached := false }).withTrunk
    { s.trunk with breakState := .spent }

theorem exec_trunkBreak {s : State} (armed : s.trunk.breakState = .armed) (space : (s.port .trunk).rxPin = .space) :
    exec .trunkBreak s = .next (s.broken.warmRestart.post .restarted none none (some 2)) := if_pos ⟨armed, space⟩

theorem broken_port_branch (s : State) {p : Port} (h : p ≠ .trunk) : s.broken.port p = s.port p :=
  State.setPort_port_other _ _ h

theorem broken_port_trunk (s : State) : s.broken.port .trunk = { s.port .trunk with
    spaceCount := max (s.port .trunk).spaceCount s.agent.settings.breakLength, limitReached := false } :=
  State.setPort_port s .trunk _

/-- The break changes nothing of the trunk that a restart or a decision looks at. -/
theorem broken_restarted {s t : State} (h : RestartedWarm s.broken t) : RestartedWarm s t := by
  obtain ⟨agent, formats, routes, exchanges, pool, ports, straps, pending⟩ := h
  refine ⟨agent, formats, routes, exchanges, pool, fun p => ?_, straps, pending⟩
  have port := ports p
  by_cases e : p = .trunk
  · subst e
    rw [broken_port_trunk] at port
    exact port
  · rw [broken_port_branch s e] at port
    exact port

/-- Settles O5: an ARMED break at space is a warm restart of the state with the break SPENT. -/
theorem breakRestartsOnceWhileArmed : Obligations.BreakRestartsOnceWhileArmed := by
  refine ⟨fun s armed space => ?_, fun s spent => ?_⟩
  · refine ⟨_, exec_trunkBreak armed space, broken_restarted ((warmRestart_restarted _).post _ _ _ _),
      warmRestart_trunk s.broken, fun p => ?_, ⟨_, rfl⟩, fun none => ?_⟩
    · have kept := warmRestart_counters s.broken p
      by_cases e : p = .trunk
      · subst e
        rw [broken_port_trunk] at kept
        exact kept
      · rw [broken_port_branch s e] at kept
        exact kept
    · have none' : Port.all.all (fun p => (s.broken.port p).completions.isEmpty) = true := none
      rw [warmRestart_plain none']
      obtain ⟨⟨cells, reports, format, branches⟩, trunk⟩ := warmed_plain s.broken
      have plain : RestartedPlain s s.broken.warmed := by
        refine ⟨cells, reports, format, fun p branch => ?_⟩
        rw [← broken_port_branch s branch]
        exact branches p branch
      exact ⟨rfl, plain.post _ _ _ _, trunk⟩
  · have idle : ¬(s.trunk.breakState = .armed ∧ (s.port .trunk).rxPin = .space) := fun h => by
      rw [spent] at h
      cases h.1
    exact if_neg idle

end Sys2Proof.Machine
end

section
/-! PROOFS. Openings that make room, retries, and collisions within the retry limit. -/

namespace Sys2Proof.Machine

/-! ### Openings (R52, R53) -/

section
variable {m : ExchangeMonitor} {depth : Nat} {p : Port} {e : QueueEntry} {q : ExchangeRequest}

theorem opening_refused_deep (deep : depth ≤ m.openCount p) : m.opening depth p e q = none := by
  unfold ExchangeMonitor.opening
  rw [if_pos (c := m.openCount p ≥ depth) deep, ite_self]

theorem opening_refused_open {r : ExchangeRecord} (mem : r ∈ m.records) (on : r.onPair p e.line = true)
    (isOpen : r.isOpen = true) : m.opening depth p e q = none := by
  have any : m.records.any (fun r => r.onPair p e.line && r.isOpen) = true :=
    List.any_eq_true.mpr ⟨r, mem, by rw [on, isOpen]; rfl⟩
  unfold ExchangeMonitor.opening
  rw [any]
  rfl

/-- An opening on a pair without an open record, below the depth. -/
theorem opening_eq (closed : ∀ r ∈ m.records, r.onPair p e.line = true → r.isOpen = false) (shallow : m.openCount p < depth) :
    m.opening depth p e q =
      if (m.removePair p e.line).records.length < Config.exchangeCount then
        some ((m.removePair p e.line).append (m.opened p e q))
      else
        match (m.removePair p e.line).oldestLapsed with
        | none => none
        | some old => some (((m.removePair p e.line).removePair old.target old.line).append (m.opened p e q)) := by
  have noOpen : m.records.any (fun r => r.onPair p e.line && r.isOpen) = false :=
    List.any_eq_false.mpr fun r hr k => by
      rw [Bool.and_eq_true] at k
      rw [closed r hr k.1] at k
      cases k.2
  unfold ExchangeMonitor.opening
  rw [noOpen]
  exact (if_neg Bool.false_ne_true).trans (if_neg (Nat.not_le.mpr shallow))

/-- The oldest LAPSED record is older than none of them (R50). -/
theorem oldestLapsed_some {old : ExchangeRecord} (h : m.oldestLapsed = some old) :
    ∀ r ∈ m.records, r.isOpen = false → m.age r ≤ m.age old := by
  intro r hr closed
  have mem : r ∈ m.oldestFirst (m.records.filter fun r => !r.isOpen) :=
    (m.oldestFirst_perm _).mem_iff.mpr (List.mem_filter.mpr ⟨hr, by rw [closed]; rfl⟩)
  have falling := m.oldestFirst_fallingAge (m.records.filter fun r => !r.isOpen)
  unfold ExchangeMonitor.oldestLapsed at h
  cases k : m.oldestFirst (m.records.filter fun r => !r.isOpen) with
  | nil => rw [k] at h; cases h
  | cons x rest =>
    rw [k] at h mem falling
    cases h
    rcases List.mem_cons.mp mem with same | later
    · rw [same]
    · exact (List.pairwise_cons.mp falling).1 r later

theorem oldestLapsed_none (h : m.oldestLapsed = none) : m.records.all ExchangeRecord.isOpen = true := by
  unfold ExchangeMonitor.oldestLapsed at h
  have empty := List.head?_eq_none_iff.mp h
  have none := m.oldestFirst_perm (m.records.filter fun r => !r.isOpen)
  rw [empty, List.nil_perm, List.filter_eq_nil_iff] at none
  exact List.all_eq_true.mpr fun r hr => by simpa using none r hr

end

/-- Settles O14: by where the pair's record and the oldest LAPSED record stand. -/
theorem openingMakesRoom : Obligations.OpeningMakesRoom := by
  refine ⟨fun m depth p e q one full none => ⟨fun no => ?_, fun some shallow => ?_⟩,
    fun m depth p e q r one room found => ⟨fun no => ?_, fun lapsed shallow => ?_⟩⟩
  · have closed : ∀ r ∈ m.records, r.onPair p e.line = true → r.isOpen = false := fun r hr on => by
      rw [ExchangeMonitor.find_none none r hr] at on; cases on
    obtain all | deep := no
    · rcases Nat.lt_or_ge (m.openCount p) depth with shallow | deep
      · rw [opening_eq closed shallow, ExchangeMonitor.removePair_none none, if_neg (by rw [full]; decide)]
        cases old : m.oldestLapsed with
        | none => rfl
        | some x =>
          obtain ⟨mem, lapsed⟩ := ExchangeMonitor.mem_oldestLapsed old
          rw [List.all_eq_true.mp all x mem] at lapsed
          cases lapsed
      · exact opening_refused_deep deep
    · exact opening_refused_deep deep
  · have closed : ∀ r ∈ m.records, r.onPair p e.line = true → r.isOpen = false := fun r hr on => by
      rw [ExchangeMonitor.find_none none r hr] at on; cases on
    rw [opening_eq closed shallow, ExchangeMonitor.removePair_none none, if_neg (by rw [full]; decide)]
    cases old : m.oldestLapsed with
    | none =>
      obtain ⟨x, mem, lapsed⟩ := List.any_eq_true.mp some
      rw [List.all_eq_true.mp (oldestLapsed_none old) x mem] at lapsed
      cases lapsed
    | some x =>
      obtain ⟨mem, lapsed⟩ := ExchangeMonitor.mem_oldestLapsed old
      refine ⟨x, mem, lapsed, oldestLapsed_some old, ?_⟩
      dsimp only
      rw [ExchangeMonitor.removePair_eq one mem]
      rfl
  · obtain ⟨mem, target, line⟩ := ExchangeMonitor.find_some found
    have on : r.onPair p e.line = true := (r.onPair_iff p e.line).mpr ⟨target, line⟩
    obtain isOpen | deep := no
    · exact opening_refused_open mem on (decide_eq_true isOpen)
    · exact opening_refused_deep deep
  · obtain ⟨mem, target, line⟩ := ExchangeMonitor.find_some found
    have removed : m.removePair p e.line = { m with records := m.records.filter fun x => decide (x ≠ r) } := by
      rw [← target, ← line, ExchangeMonitor.removePair_eq one mem]
    have closed : ∀ x ∈ m.records, x.onPair p e.line = true → x.isOpen = false := fun x hx on => by
      rw [← target, ← line, onPair_eq one mem hx, decide_eq_true_eq] at on
      rw [on, ExchangeRecord.isOpen, lapsed]
      rfl
    have fewer : (m.removePair p e.line).records.length < Config.exchangeCount := by
      rw [removed]
      exact (List.length_filter_lt_length_iff_exists.mpr ⟨r, mem, by simp⟩).trans_le room
    rw [opening_eq closed shallow, if_pos fewer, removed]
    rfl

/-! ### Attempts -/

/-- The port as the start of an attempt leaves it where no telegram is open (R100). -/
def PortState.started (x : PortState) (line : Chr) : PortState :=
  { x with
    receiver := .echo 0
    transmitter := .sending x.format 0 (x.format.levels line true) 0 0 false
    scheduler := { x.scheduler with phase := .onLine } }

theorem startAttempt_idle {s : State} {p : Port} {e : QueueEntry} {rest : List QueueEntry}
    (queue : (s.scheduler p).queue = e :: rest) (closed : openCompletion s.pool (s.port p).receiver = none) :
    s.startAttempt p = s.setPort p ((s.port p).started e.line) := by
  have none : s.closeTelegram p = s := by unfold State.closeTelegram; rw [closed]
  unfold State.startAttempt
  rw [queue, none]
  rfl

/-- Settles O15: the retry starts on the line that its gap has released. -/
theorem backoffEndRetries : Obligations.BackoffEndRetries := by
  intro p s e rest phase queue quiet idle free
  have released : exec (.backoffEnd p) s = .next ((s.setPort p
      { (s.port p).spanReached ((s.port p).format.span (s.scheduler p).backoffGap) with monitor := .released }).startAttempt p) := by
    have monitor : (if (s.port p).monitor = .busy then LineMonitor.released else (s.port p).monitor) = .released := by
      cases m : (s.port p).monitor with
      | spaceHeld => exact absurd m free
      | _ => rfl
    change execBackoffEnd p s = _
    unfold execBackoffEnd
    dsimp only
    rw [if_pos ⟨phase, quiet⟩]
    unfold State.onPort
    dsimp only
    rw [monitor]
    rfl
  rw [released, startAttempt_idle (rest := rest) (e := e)]
  · refine ⟨_, rfl, ?_, ?_⟩ <;> rw [State.setPort_port, State.setPort_port]
    · rw [State.setPort_setPort]
      rfl
    · exact Nat.le_max_right _ _
  · rw [State.scheduler_def, State.setPort_port]
    exact queue
  · rw [State.setPort_port]
    change openCompletion _ (s.port p).receiver = none
    rw [idle]
    rfl

/-! ### Collisions within the retry limit (R102, R104, R105) -/

/-- The port as a collision within the retry limit leaves it. -/
def PortState.collided (x : PortState) (p : Port) : PortState :=
  { x with
    transmitter := x.transmitter.cutShort
    counters := { x.counters with collisions := min 65535 (x.counters.collisions + 1) }
    scheduler := { x.scheduler with
      phase := .backoff, attempts := x.scheduler.attempts + 1,
      backoffGap := x.format.guardGap + 12 * (x.scheduler.attempts + 1) + 3 * p.number } }

theorem collide_retry {s : State} {p : Port} {e : QueueEntry} (bounded : (s.port p).counters.collisions ≤ 65535)
    (again : (s.scheduler p).attempts + 1 ≤ (s.port p).format.retryLimit) :
    s.collide p e = s.setPort p ((s.port p).collided p) := by
  unfold State.collide
  extract_lets n f cut
  rw [if_pos again]
  unfold cut State.count State.onScheduler State.onPort
  simp only [State.setPort_port, State.setPort_setPort]
  unfold PortState.collided Counters.addCollision
  rw [bump_eq_min bounded]
  rfl

/-- Settles O17. -/
theorem echoMissingBacksOff : Obligations.EchoMissingBacksOff := by
  intro p s e rest pos phase queue receiver inside again bounded
  have missing : exec (.echoMissing p) s = .next ((s.setPort p ((s.port p).characterEnded 0)).collide p e) := by
    have onLine : s.onLine p = some (e, pos) := by
      unfold State.onLine
      rw [phase, queue, receiver]
    change execEchoMissing p s = _
    unfold execEchoMissing
    rw [onLine]
    exact if_pos inside
  rw [missing, collide_retry]
  · refine ⟨_, rfl, ?_, ?_⟩ <;> rw [State.setPort_port, State.setPort_port]
    · rw [State.setPort_setPort]
      rfl
    · exact PortState.characterEnded_seen _ 0
  · rw [State.setPort_port]; exact bounded
  · rw [State.scheduler_def, State.setPort_port]; exact again

end Sys2Proof.Machine
end

section
/-! PROOFS. What a character report does to the line, and the echo check it may be (R102, R104, R142, R143). -/

namespace Sys2Proof.Machine

/-! ### The line after a report -/

/-- The port's line as a report of format `f` leaves it (R142, Table 6-1). -/
def PortState.reported (x : PortState) (f : FormatRecord) (r : CharReport) : PortState :=
  if r.stopSpace then
    { (if x.rxPin = .mark then x.edge else x) with charReceiver := .awaitMark, markSpan := 0, charTail := 0 }
  else { x.markSeen.characterEnded f.stopTail with charReceiver := .awaitStart }

theorem PortState.reported_line (x : PortState) (f : FormatRecord) (r : CharReport) :
    x.reported f r = x.withLine (x.reported f r) := by
  unfold PortState.reported
  split
  · split <;> rfl
  · rfl

/-- A report of no framing error is of a mark stop bit, which on the trunk arms the break (R132). -/
theorem afterReport_eq (s : State) (p : Port) (f : FormatRecord) (r : CharReport) :
    s.afterReport p f r = (s.setPort p ((s.port p).reported f r)).withTrunk
      { s.trunk with breakState := if p = .trunk ∧ r.stopSpace = false then .armed else s.trunk.breakState } := by
  unfold State.afterReport PortState.reported
  dsimp only
  cases stop : r.stopSpace
  · simp only [Bool.false_eq_true, if_false, and_true]
    rw [readMark_eq]
    unfold State.onPort
    change ((s.setPort p (s.port p).markSeen).setPort p _).withTrunk _ = _
    rw [State.setPort_setPort]
    change State.withTrunk (s.setPort p { ((s.setPort p (s.port p).markSeen).port p).characterEnded _ with
      charReceiver := .awaitStart }) _ = _
    rw [State.setPort_port]
  · simp only [if_true, Bool.true_eq_false, and_false, if_false]
    by_cases mark : (s.port p).rxPin = .mark
    · rw [if_pos mark, if_pos mark, State.onPort_onPort]
      rfl
    · rw [if_neg mark, if_neg mark]
      rfl

theorem fitReport_error (f : FormatRecord) (r : CharReport) : (f.fitReport r).error = r.error := by
  unfold FormatRecord.fitReport
  split <;> rfl

/-- The report a CHARACTER_REPORT command gives under format `f` (R143, entry 19). -/
abbrev FormatRecord.taken (f : FormatRecord) (v : Chr) (m pb : Bool) (err : Option CharError) : CharReport :=
  f.fitReport ⟨v, m, pb, err⟩

section
variable (f : FormatRecord) (v : Chr) (m pb : Bool) (err : Option CharError)

theorem taken_stopSpace : (f.taken v m pb err).stopSpace = true ↔ err = some .framing ∨ err = some .brk := by
  unfold CharReport.stopSpace
  rw [fitReport_error]
  cases err with
  | none => simp
  | some x => cases x <;> simp [CharError.isFraming]

theorem taken_stopMark : (f.taken v m pb err).stopSpace = false ↔ err ≠ some .framing ∧ err ≠ some .brk := by
  rw [← Bool.not_eq_true, taken_stopSpace, not_or]

theorem reported_charReceiver (x : PortState) : (x.reported f (f.taken v m pb err)).charReceiver = afterStop err := by
  unfold PortState.reported afterStop
  by_cases space : (f.taken v m pb err).stopSpace = true
  · rw [if_pos space, if_pos ((taken_stopSpace f v m pb err).mp space)]
  · rw [if_neg space, if_neg (mt (taken_stopSpace f v m pb err).mpr space)]

end

/-- The state once the line has seen the report and before the receiver acts on it. -/
def State.seen (s : State) (p : Port) (v : Chr) (m pb : Bool) (err : Option CharError) : State :=
  s.afterReport p (s.port p).charFormat ((s.port p).charFormat.taken v m pb err)

section
variable (s : State) (p : Port) (v : Chr) (m pb : Bool) (err : Option CharError)

theorem exec_characterReport : exec (.characterReport p v m pb err) s = .next
    ((s.seen p v m pb err).receiveCharacter p (s.port p).charFormat ((s.port p).charFormat.taken v m pb err)) := rfl

theorem seen_eq : s.seen p v m pb err =
    (s.setPort p ((s.port p).reported (s.port p).charFormat ((s.port p).charFormat.taken v m pb err))).withTrunk
      { s.trunk with
        breakState := if p = .trunk ∧ err ≠ some .framing ∧ err ≠ some .brk then .armed else s.trunk.breakState } := by
  rw [State.seen, afterReport_eq]
  simp only [taken_stopMark]

theorem seen_port : (s.seen p v m pb err).port p
    = (s.port p).reported (s.port p).charFormat ((s.port p).charFormat.taken v m pb err) := by
  rw [seen_eq]
  exact State.setPort_port s p _

theorem seen_port_other {q : Port} (h : q ≠ p) : (s.seen p v m pb err).port q = s.port q := by
  rw [seen_eq]
  exact State.setPort_port_other s _ h

/-- The line of the port has changed, and nothing else of it. -/
theorem seen_port_line : (s.seen p v m pb err).port p = (s.port p).withLine ((s.seen p v m pb err).port p) := by
  rw [seen_port]
  exact PortState.reported_line _ _ _

theorem seen_charReceiver : ((s.seen p v m pb err).port p).charReceiver = afterStop err := by
  rw [seen_port]
  exact reported_charReceiver _ v m pb err _

theorem seen_blocks : (s.seen p v m pb err).pool = s.pool ∧ (s.seen p v m pb err).exchanges = s.exchanges
    ∧ (s.seen p v m pb err).notices = s.notices ∧ (s.seen p v m pb err).routes = s.routes
    ∧ (s.seen p v m pb err).agent = s.agent ∧ (s.seen p v m pb err).straps = s.straps
    ∧ (s.seen p v m pb err).pending = s.pending := by
  rw [seen_eq]
  exact ⟨rfl, rfl, rfl, rfl, rfl, rfl, rfl⟩

/-- A report that changes, past the line, one port alone. -/
theorem lineSeen_setPort (x : PortState) : LineSeen p err s ((s.seen p v m pb err).setPort p x) := by
  rw [seen_eq]
  refine ⟨fun q h => ?_, rfl, rfl, rfl, rfl, rfl⟩
  rw [State.setPort_port_other _ _ h]
  exact State.setPort_port_other s _ h

end

/-- A report of a mark stop bit shows mark on the line. -/
theorem LineSeen.markKept {p : Port} {err : Option CharError} {s t : State} (h : LineSeen p err s t)
    (stop : err ≠ some .framing ∧ err ≠ some .brk) : MarkKept p s t := by
  obtain ⟨others, trunk, routes, agent, straps, pending⟩ := h
  refine ⟨others, ?_, routes, agent, straps, pending⟩
  rw [trunk]
  simp [stop]

/-! ### The echo check (R102) -/

/-- A whole-width value, or one that a 7-bit port can give, is the value the port takes (R148). -/
theorem FormatRecord.fit_eq {f : FormatRecord} {v : Chr} (h : f.width = .eight ∨ v.toNat ≤ 0x7F) : f.fit v = v := by
  unfold FormatRecord.fit
  cases w : f.width with
  | eight => rfl
  | seven =>
    have low := h.resolve_left (by rw [w]; decide)
    apply BitVec.eq_of_toNat_eq
    rw [BitVec.toNat_and]
    change v.toNat &&& 2 ^ 7 - 1 = v.toNat
    rw [Nat.and_two_pow_sub_one_eq_mod]
    omega

/-- What the echo of the character sent in place `pos` must be (R102). -/
abbrev EchoAgrees (f : FormatRecord) (sent : Chr) (pos : Nat) (v : Chr) (m pb : Bool) (err : Option CharError) : Prop :=
  err = none ∧ v = f.fit sent ∧ m = decide (f.framing = .addressBit ∧ pos = 0) ∧ (f.parity = .noParity ∨ pb = f.parityBit v m)

theorem FormatRecord.hasParity_iff (f : FormatRecord) : f.hasParity = true ↔ f.parity ≠ .noParity := by
  unfold FormatRecord.hasParity
  cases f.parity <;> decide

theorem FormatRecord.hasMarker_iff (f : FormatRecord) : f.hasMarker = true ↔ f.framing = .addressBit := by
  unfold FormatRecord.hasMarker
  cases f.framing <;> decide

/-- The fields of a report that is no break, of a character as the format can give it. -/
theorem taken_fields {f : FormatRecord} {v : Chr} {m pb : Bool} {err : Option CharError} (whole : err ≠ some .brk)
    (width : f.width = .eight ∨ v.toNat ≤ 0x7F) (framing : f.framing = .addressBit ∨ m = false)
    (parity : f.parity ≠ .noParity ∨ pb = false) : f.taken v m pb err = ⟨v, m, pb, err⟩ := by
  have marker : (f.hasMarker && m) = m := by
    obtain k | k := framing
    · rw [f.hasMarker_iff.mpr k, Bool.true_and]
    · rw [k, Bool.and_false]
  have parityBit : (f.hasParity && pb) = pb := by
    obtain k | k := parity
    · rw [f.hasParity_iff.mpr k, Bool.true_and]
    · rw [k, Bool.and_false]
  unfold FormatRecord.taken FormatRecord.fitReport
  split
  · next brk => exact absurd brk whole
  · dsimp only
    rw [FormatRecord.fit_eq width, marker, parityBit]

theorem echoGood_iff {f : FormatRecord} {v : Chr} {m pb : Bool} {err : Option CharError} (sent : Chr) (pos : Nat)
    (width : f.width = .eight ∨ v.toNat ≤ 0x7F) (framing : f.framing = .addressBit ∨ m = false)
    (parity : f.parity ≠ .noParity ∨ pb = false)
    (bad : err = some .parity → f.parity ≠ .noParity ∧ pb ≠ f.parityBit v m) :
    echoGood f sent pos (f.taken v m pb err) = true ↔ EchoAgrees f sent pos v m pb err := by
  by_cases space : err = some .framing ∨ err = some .brk
  · have stop := (taken_stopSpace f v m pb err).mpr space
    unfold echoGood EchoAgrees
    dsimp only
    rw [stop]
    simp only [Bool.not_true, Bool.and_false, Bool.false_eq_true, false_iff]
    rintro ⟨none, _⟩
    rw [none] at space
    obtain k | k := space <;> cases k
  · have stop : (f.taken v m pb err).stopSpace = false := by
      rw [← Bool.not_eq_true, taken_stopSpace]
      exact space
    have fields := taken_fields (m := m) (pb := pb) (err := err) (fun k => space (.inr k)) width framing parity
    have marker : (f.hasMarker && decide (pos = 0)) = decide (f.framing = .addressBit ∧ pos = 0) := by
      rw [Bool.decide_and, Bool.eq_iff_iff, Bool.and_eq_true, Bool.and_eq_true, f.hasMarker_iff, decide_eq_true_eq, decide_eq_true_eq]
    unfold echoGood EchoAgrees
    dsimp only
    rw [stop, fields, marker]
    simp only [Bool.not_false, Bool.and_true, Bool.and_eq_true, decide_eq_true_eq, beq_iff_eq, Bool.or_eq_true,
      Bool.not_eq_true']
    rw [← Bool.not_eq_true f.hasParity, f.hasParity_iff, not_not]
    constructor
    · rintro ⟨⟨rfl, rfl⟩, check⟩
      refine ⟨?_, rfl, rfl, check⟩
      cases err with
      | none => rfl
      | some x =>
        cases x with
        | parity =>
          obtain ⟨some, differs⟩ := bad rfl
          exact absurd (check.resolve_left some) differs
        | framing => exact absurd (.inl rfl) space
        | brk => exact absurd (.inr rfl) space
    · rintro ⟨_, rfl, rfl, check⟩
      exact ⟨⟨rfl, rfl⟩, check⟩

/-- A report taken in ECHO (R102, R104): a good character moves the check on, another one is a collision. -/
theorem exec_echo {s : State} {p : Port} {e : QueueEntry} {rest : List QueueEntry} {pos : Nat} {v : Chr} {m pb : Bool}
    {err : Option CharError} {f : FormatRecord} {i bit tick : Nat} {ls : List Level} {cut : Bool}
    (phase : (s.scheduler p).phase = .onLine) (queue : (s.scheduler p).queue = e :: rest)
    (receiver : (s.port p).receiver = .echo pos) (inside : pos < (s.pool.descriptor e.desc).length)
    (sending : (s.port p).transmitter = .sending f i ls bit tick cut) (format : (s.port p).charFormat = f) :
    exec (.characterReport p v m pb err) s = .next
      (if echoGood f (s.pool.sentChar e pos) pos (f.taken v m pb err) then
        (s.seen p v m pb err).setPort p { (s.seen p v m pb err).port p with receiver := .echo (pos + 1) }
      else (s.seen p v m pb err).collide p e) := by
  rw [exec_characterReport, format]
  have line := seen_port_line s p v m pb err
  have pool := (seen_blocks s p v m pb err).1
  generalize s.seen p v m pb err = u at line pool ⊢
  have receiver' : (u.port p).receiver = .echo pos := by rw [line]; exact receiver
  have onLine : u.onLine p = some (e, pos) := by
    unfold State.onLine
    rw [receiver', State.scheduler_def, line]
    change (match (s.scheduler p).phase, (s.scheduler p).queue, Receiver.echo pos with
      | .onLine, e :: _, .echo pos => some (e, pos)
      | _, _, _ => none) = _
    rw [phase, queue]
  have sent : (u.port p).sentFormat = f := by
    unfold PortState.sentFormat
    rw [line]
    change (match (s.port p).transmitter with
      | .sending f _ _ _ _ _ => f
      | .rest => _) = f
    rw [sending]
  unfold State.receiveCharacter
  dsimp only
  rw [receiver']
  dsimp only
  unfold State.echoCharacter State.entryLength
  rw [onLine]
  dsimp only
  rw [pool, if_pos inside, sent]
  rfl

/-- The counters, transmitter and scheduler as a collision finds them once the line has seen the report. -/
theorem seen_collided {s : State} {p : Port} {e : QueueEntry} (v : Chr) (m pb : Bool) (err : Option CharError)
    (bounded : (s.port p).counters.collisions ≤ 65535)
    (again : (s.scheduler p).attempts + 1 ≤ (s.port p).format.retryLimit) :
    (s.seen p v m pb err).collide p e
      = (s.seen p v m pb err).setPort p (((s.port p).withLine ((s.seen p v m pb err).port p)).collided p) := by
  have line := seen_port_line s p v m pb err
  rw [collide_retry, ← line]
  · rw [line]; exact bounded
  · rw [State.scheduler_def, line]; exact again

/-- Settles O16: the echo check of any format, and of the plain one as a case of it. -/
theorem echoCheckFindsCollision : Obligations.EchoCheckFindsCollision := by
  unfold Obligations.EchoCheckFindsCollision
  rw [and_iff_right_of_imp]
  · intro p s e rest pos v m pb err f i bit tick ls cut phase queue receiver inside sending format width framing parity bad
      bounded again
    rw [exec_echo phase queue receiver inside sending format]
    have agrees := echoGood_iff (s.pool.sentChar e pos) pos width framing parity bad
    obtain ⟨pool, exchanges, notices, -⟩ := seen_blocks s p v m pb err
    have line := seen_port_line s p v m pb err
    have after := seen_charReceiver s p v m pb err
    by_cases good : EchoAgrees f (s.pool.sentChar e pos) pos v m pb err
    · rw [if_pos (agrees.mpr good)]
      refine ⟨_, rfl, lineSeen_setPort s p v m pb err _, pool, exchanges, notices, ?_⟩
      rw [if_pos good, State.scheduler_def, State.setPort_port]
      generalize (s.seen p v m pb err).port p = l at line after ⊢
      rw [line]
      exact ⟨rfl, after, rfl, rfl, rfl, rfl⟩
    · rw [if_neg (mt agrees.mp good), seen_collided v m pb err bounded again]
      refine ⟨_, rfl, lineSeen_setPort s p v m pb err _, pool, exchanges, notices, ?_⟩
      rw [if_neg good, State.scheduler_def, State.setPort_port]
      refine ⟨rfl, after, rfl, receiver, ?_, rfl⟩
      change (s.port p).transmitter.cutShort = _
      rw [sending]
      rfl
  · intro every p s e rest pos v pb f i bit tick ls cut phase queue receiver inside sending format eight framing parity
      bounded again
    obtain ⟨t, run, seen, pool, exchanges, notices, -, -, outcome⟩ :=
      every p s e rest pos v false pb none f i bit tick ls cut phase queue receiver inside sending format (.inl eight)
        (.inr rfl) (.inl parity) (fun k => by cases k) bounded again
    have agrees : EchoAgrees f (s.pool.sentChar e pos) pos v false pb none
        ↔ v = s.pool.sentChar e pos ∧ pb = f.parityBit v false := by
      have marker : decide (f.framing = .addressBit ∧ pos = 0) = false := by rw [framing]; simp
      have fit : f.fit (s.pool.sentChar e pos) = s.pool.sentChar e pos := FormatRecord.fit_eq (.inl eight)
      unfold EchoAgrees
      rw [marker, fit]
      simp [parity]
    refine ⟨t, run, seen.markKept ⟨nofun, nofun⟩, pool, exchanges, notices, ?_⟩
    by_cases good : v = s.pool.sentChar e pos ∧ pb = f.parityBit v false
    · rw [if_pos (agrees.mpr good)] at outcome
      rw [if_pos good]
      obtain ⟨next, counters, transmitter, scheduler⟩ := outcome
      exact ⟨by rw [scheduler]; exact queue, next, counters, transmitter, scheduler⟩
    · rw [if_neg (mt agrees.mp good)] at outcome
      rw [if_neg good]
      obtain ⟨counters, -, transmitter, scheduler⟩ := outcome
      exact ⟨by rw [scheduler]; exact queue, counters, transmitter, scheduler⟩

end Sys2Proof.Machine
end

section
/-! PROOFS. Characters that open a telegram, belong to it, or are set aside (R58, R59, R79 to R83, R118 to R125). -/

namespace Sys2Proof.Machine

/-! ### The pool's operations in reception -/

section
variable {q : Pool} {d : DescNo} {c : CellNo}

theorem Pool.putChar_at {i : Nat} (h : (q.descriptor d).cells[i / 32]? = some c) (v : Chr) :
    q.putChar d i v = { q with cells := writeCell q.cells (c.val * 32 + i % 32) v } := by
  unfold Pool.putChar Pool.charAddress
  rw [show Config.cellSize = 32 from rfl, h]
  rfl

theorem Pool.charAt_at {i : Nat} (h : (q.descriptor d).cells[i / 32]? = some c) :
    q.charAt d i = readCell q.cells (c.val * 32 + i % 32) := by
  unfold Pool.charAt Pool.charAddress
  rw [show Config.cellSize = 32 from rfl, h]
  rfl

variable {p : Port} {a : Chr} {x : Option Damage}

theorem Pool.openTelegram_none (none : q.freeDescriptor? = none) : q.openTelegram p a x = .none := by
  unfold Pool.openTelegram
  rw [none]

theorem Pool.openTelegram_cell {rest : List CellNo} (found : q.freeDescriptor? = some d) (free : q.free = c :: rest) :
    q.openTelegram p a x = some (d, true,
      { (Pool.setDescriptor { q with free := rest } d (openedDescriptor p a [c] x)) with
        cells := writeCell q.cells (c.val * 32) a }) := by
  have taken : q.takeCell = some (c, { q with free := rest }) := by
    unfold Pool.takeCell
    rw [free]
  unfold Pool.openTelegram
  rw [found]
  dsimp only
  rw [taken]
  dsimp only
  rw [Pool.putChar_at (c := c) (by rw [Pool.setDescriptor_same]; rfl)]
  rfl

theorem Pool.openTelegram_noCell (found : q.freeDescriptor? = some d) (free : q.free = []) :
    q.openTelegram p a x = some (d, false, q.setDescriptor d (openedDescriptor p a [] (x.or (some .shortfall)))) := by
  have taken : q.takeCell = none := by
    unfold Pool.takeCell
    rw [free]
  unfold Pool.openTelegram
  rw [found]
  dsimp only
  rw [taken]

/-- A character that is not stored, for want of room or of a cell (R81, R83). -/
theorem Pool.storeBody_stops (v : Chr)
    (h : (q.descriptor d).length = 256 ∨ (q.descriptor d).length < 256 ∧ (q.descriptor d).length % 32 = 0 ∧ q.free = []) :
    q.storeBody d v
      = (false, q.recordDamage d (some (if (q.descriptor d).length = 256 then .overlength else .shortfall))) := by
  unfold Pool.storeBody
  dsimp only
  obtain full | ⟨room, boundary, free⟩ := h
  · rw [if_pos full, if_pos (Nat.le_of_eq full.symm)]
  · have taken : q.takeCell = none := by
      unfold Pool.takeCell
      rw [free]
    rw [if_neg (Nat.ne_of_lt room), if_neg (Nat.not_le.mpr room), if_pos boundary, taken]

/-- The cell that takes the next character: the lowest free one at a cell boundary, else the last of the list (R81). -/
def Pool.NextCell (q : Pool) (d : DescNo) (c : CellNo) : Prop :=
  if (q.descriptor d).length % 32 = 0 then q.free.head? = some c
  else (q.descriptor d).cells[(q.descriptor d).length / 32]? = some c

/-- The pool with one character stored after the last one, in the cell `c` (R81). -/
def Pool.stored (q : Pool) (d : DescNo) (c : CellNo) (v : Chr) : Pool :=
  let n := (q.descriptor d).length
  { (q.setDescriptor d { q.descriptor d with
        length := n + 1
        wide := (q.descriptor d).wide || decide (0x7F < v.toNat)
        cells := if n % 32 = 0 then (q.descriptor d).cells ++ [c] else (q.descriptor d).cells }) with
    free := if n % 32 = 0 then q.free.tail else q.free
    cells := writeCell q.cells (c.val * 32 + n % 32) v }

/-- Once stored, the cell list reaches the character's place. -/
theorem Pool.nextCell_reaches (next : q.NextCell d c)
    (cells : (q.descriptor d).cells.length = ((q.descriptor d).length + 31) / 32) :
    (if (q.descriptor d).length % 32 = 0 then (q.descriptor d).cells ++ [c]
      else (q.descriptor d).cells)[(q.descriptor d).length / 32]? = some c := by
  unfold Pool.NextCell at next
  by_cases boundary : (q.descriptor d).length % 32 = 0
  · rw [if_pos boundary, show (q.descriptor d).length / 32 = (q.descriptor d).cells.length by omega]
    exact List.getElem?_concat_length
  · rw [if_neg boundary] at next ⊢
    exact next

theorem Pool.storeBody_stores (v : Chr) (room : (q.descriptor d).length < 256) (next : q.NextCell d c)
    (cells : (q.descriptor d).cells.length = ((q.descriptor d).length + 31) / 32) :
    q.storeBody d v = (true, q.stored d c v) := by
  have reach := Pool.nextCell_reaches next cells
  unfold Pool.NextCell at next
  unfold Pool.storeBody Pool.stored
  dsimp only
  rw [if_neg (Nat.not_le.mpr room)]
  by_cases boundary : (q.descriptor d).length % 32 = 0
  · rw [if_pos boundary] at next reach
    obtain ⟨rest, free⟩ : ∃ rest, q.free = c :: rest := List.head?_eq_some_iff.mp next
    have taken : q.takeCell = some (c, { q with free := rest }) := by
      unfold Pool.takeCell
      rw [free]
    rw [if_pos boundary, if_pos boundary, if_pos boundary, taken]
    dsimp only
    unfold Pool.appendChar
    dsimp only
    rw [Pool.setDescriptor_same, Pool.putChar_at (c := c) (by rw [Pool.setDescriptor_same]; exact reach), free]
    unfold Pool.setDescriptor
    dsimp only
    rw [Vector.set_set]
    rfl
  · rw [if_neg boundary] at next reach
    rw [if_neg boundary, if_neg boundary, if_neg boundary]
    unfold Pool.appendChar
    dsimp only
    rw [Pool.putChar_at (c := c) next]
    rfl

theorem Pool.stored_charAt (w : cellsWf q.cells = true) (v : Chr) (next : q.NextCell d c)
    (cells : (q.descriptor d).cells.length = ((q.descriptor d).length + 31) / 32) :
    (q.stored d c v).charAt d (q.descriptor d).length = v := by
  rw [Pool.charAt_at (c := c)]
  · exact readCell_writeCell_self _ _ w
  · change ((q.setDescriptor d _).descriptor d).cells[_]? = _
    rw [Pool.setDescriptor_same]
    exact Pool.nextCell_reaches next cells

theorem Pool.stored_descriptor (v : Chr) : (q.stored d c v).descriptor d = { q.descriptor d with
    length := (q.descriptor d).length + 1
    wide := (q.descriptor d).wide || decide (0x7F < v.toNat)
    cells := if (q.descriptor d).length % 32 = 0 then (q.descriptor d).cells ++ [c] else (q.descriptor d).cells } :=
  Pool.setDescriptor_same _ _ _

theorem Pool.stored_other (v : Chr) {k : DescNo} (h : k ≠ d) : (q.stored d c v).descriptor k = q.descriptor k :=
  Pool.setDescriptor_other q _ h

end

/-! ### What a report is to the receiver -/

section
variable (f : FormatRecord) (v : Chr) (m pb : Bool) (err : Option CharError)

theorem taken_value (width : f.width = .eight ∨ v.toNat ≤ 0x7F) : (f.taken v m pb err).value = takenValue v err := by
  unfold FormatRecord.taken FormatRecord.fitReport takenValue
  dsimp only
  split
  · rfl
  · next other => rw [if_neg other]; exact FormatRecord.fit_eq width

/-- The report carries the marker bit of ADDRESS_BIT framing (R119, R143). -/
theorem taken_marked : (f.hasMarker && (f.taken v m pb err).marker) = true
    ↔ f.framing = .addressBit ∧ m = true ∧ err ≠ some .brk := by
  rw [Bool.and_eq_true, f.hasMarker_iff]
  refine and_congr_right fun marks => ?_
  unfold FormatRecord.taken FormatRecord.fitReport
  dsimp only
  split
  · simp
  · next other => rw [f.hasMarker_iff.mpr marks, Bool.true_and, and_iff_left other]

theorem taken_unmarked (h : f.framing = .idleLine ∨ m = false ∨ err = some .brk) :
    (f.hasMarker && (f.taken v m pb err).marker) = false := by
  rw [← Bool.not_eq_true, taken_marked]
  rintro ⟨marks, marked, whole⟩
  obtain k | k | k := h
  · rw [marks] at k; cases k
  · rw [marked] at k; cases k
  · exact whole k

theorem taken_opens : (!f.hasMarker || (f.taken v m pb err).marker) = true ↔ OpensTelegram f.framing m err := by
  unfold OpensTelegram
  cases marks : f.framing with
  | idleLine =>
    have : f.hasMarker = false := by rw [← Bool.not_eq_true, f.hasMarker_iff, marks]; decide
    simp [this]
  | addressBit =>
    have marker : f.hasMarker = true := f.hasMarker_iff.mpr marks
    have := taken_marked f v m pb err
    rw [marker, Bool.true_and] at this
    rw [marker, Bool.not_true, Bool.false_or, this]
    simp [marks]

end

/-! ### Opening a telegram -/

/-- Whether an address character on the pair marks its telegram late (R58, R59). -/
def ExchangeMonitor.late (m : ExchangeMonitor) (p : Port) (w : Chr) : Bool :=
  match m.find p w with
  | some x => x.marksLate
  | none => false

theorem change_addressSeen (m : ExchangeMonitor) (p : Port) (w : Chr) :
    m.change p w ExchangeRecord.addressSeen = addressTold p w m := by
  unfold ExchangeMonitor.change addressTold
  congr 1
  refine List.map_congr_left fun x _ => ?_
  by_cases pair : x.target = p ∧ x.line = w
  · rw [if_pos ((ExchangeRecord.onPair_iff x p w).mpr pair), if_pos pair]
    unfold ExchangeRecord.addressSeen
    cases x.state <;> rfl
  · rw [if_neg (mt (ExchangeRecord.onPair_iff x p w).mp pair), if_neg pair]

theorem marksLate_iff (x : ExchangeRecord) : x.marksLate = true ↔ x.state = .lapsed ∧ x.lateHold = false := by
  unfold ExchangeRecord.marksLate
  rw [Bool.and_eq_true, decide_eq_true_eq, Bool.not_eq_true']

/-- The one record of the pair decides whether the telegram is late. -/
theorem late_iff {m : ExchangeMonitor} (sound : OnePerPair m.records) (p : Port) (w : Chr) : m.late p w = true
    ↔ ∃ x ∈ m.records, x.target = p ∧ x.line = w ∧ x.state = .lapsed ∧ x.lateHold = false := by
  unfold ExchangeMonitor.late
  cases found : m.find p w with
  | none =>
    have none := List.find?_eq_none.mp found
    refine iff_of_false Bool.false_ne_true ?_
    rintro ⟨x, mem, target, line, _⟩
    exact none x mem ((ExchangeRecord.onPair_iff x p w).mpr ⟨target, line⟩)
  | some x =>
    obtain ⟨mem, rfl, rfl⟩ := ExchangeMonitor.find_some found
    constructor
    · intro late
      exact ⟨x, mem, rfl, rfl, (marksLate_iff x).mp late⟩
    · rintro ⟨y, hy, target, line, late⟩
      have same := onPair_eq sound mem hy
      rw [(ExchangeRecord.onPair_iff y x.target x.line).mpr ⟨target, line⟩] at same
      rw [← of_decide_eq_true same.symm]
      exact (marksLate_iff y).mpr late

theorem addressDamage_eq {m : ExchangeMonitor} (sound : OnePerPair m.records) (p : Port) (w : Chr) (r : CharReport) :
    addressDamage r (m.late p w) = (r.error.map CharError.damage).or (lateMark p w m) := by
  have := late_iff sound p w
  unfold addressDamage lateMark
  by_cases late : m.late p w = true
  · rw [if_pos late, if_pos (this.mp late)]
  · rw [if_neg late, if_neg (mt this.mpr late)]

section
variable {s : State} {p : Port} {r : CharReport} {w : Chr}

theorem addressCharacter_opened {d : DescNo} {b : Bool} {q : Pool} (value : r.value = w)
    (taken : s.pool.openTelegram p w (addressDamage r (s.exchanges.late p w)) = some (d, b, q)) :
    s.addressCharacter p r = ((s.withTable (addressTold p w s.exchanges)).withPool q).setPort p
      { s.port p with receiver := .inTelegram d b } := by
  subst value
  change (match s.pool.openTelegram p r.value (addressDamage r (s.exchanges.late p r.value)) with
    | some (d, storing, q) =>
      ((s.withTable (s.exchanges.change p r.value ExchangeRecord.addressSeen)).withPool q).onPort p fun x =>
        { x with receiver := .inTelegram d storing }
    | none => _) = _
  rw [taken, change_addressSeen]
  rfl

theorem addressCharacter_refused (value : r.value = w) (exhausted : s.pool.freeDescriptor? = none) :
    s.addressCharacter p r = ((s.withTable (addressTold p w s.exchanges)).withNotices
      (s.notices.post .descriptorExhausted (some p) (some w) none)).setPort p
      { s.port p with receiver := .discarding w 1 } := by
  subst value
  unfold State.addressCharacter
  dsimp only
  rw [Pool.openTelegram_none exhausted, change_addressSeen]
  rfl

end

/-- A character that starts a telegram is taken on a receiver in IDLE, the completions `ks` raised (R118, R119, R122). -/
theorem exec_starts {s : State} {p : Port} (v : Chr) {m : Bool} (pb : Bool) {err : Option CharError} {ks : List Completion}
    (starts : StartsTelegram p s m err ks) : exec (.characterReport p v m pb err) s = .next
      (((s.seen p v m pb err).setPort p { (s.seen p v m pb err).port p with
          receiver := .idle, completions := (s.port p).completions ++ ks }).addressCharacter p
        ((s.port p).charFormat.taken v m pb err)) := by
  rw [exec_characterReport]
  obtain ⟨opens, start⟩ := starts
  have opened := (taken_opens (s.port p).charFormat v m pb err).mpr opens
  have line := seen_port_line s p v m pb err
  have pool := (seen_blocks s p v m pb err).1
  generalize s.seen p v m pb err = u at line pool ⊢
  have receiver : (u.port p).receiver = (s.port p).receiver := by rw [line]; rfl
  have completions : (u.port p).completions = (s.port p).completions := by rw [line]; rfl
  unfold State.receiveCharacter
  dsimp only
  rw [receiver]
  obtain ⟨idle, rfl⟩ | ⟨framing, start⟩ := start
  · rw [idle]
    dsimp only
    rw [if_pos opened, List.append_nil, ← completions]
    rw [idle] at receiver
    rw [← receiver]
    change _ = Host.Outcome.next ((u.setPort p (u.port p)).addressCharacter p _)
    rw [State.setPort_same]
  · have marked := (taken_marked (s.port p).charFormat v m pb err).mpr (by
      obtain k | ⟨k, whole⟩ := opens
      · rw [framing] at k; cases k
      · exact ⟨framing, k, whole⟩)
    obtain ⟨o, b, holds, rfl⟩ | ⟨a, n, holds, rfl⟩ := start
    · rw [holds]
      dsimp only
      rw [if_pos marked]
      unfold State.closeTelegram
      rw [receiver, holds, pool, ← completions]
      rfl
    · rw [holds]
      dsimp only
      rw [if_pos marked]
      unfold State.closeTelegram
      rw [receiver, holds, pool, ← completions]
      rfl

section
variable {s : State} {p : Port} {v w : Chr} {m pb : Bool} {err : Option CharError} {ks : List Completion}

/-- The port once the address character has been taken: the completions raised last, the receiver at the telegram. -/
abbrev State.takenPort (s : State) (p : Port) (v : Chr) (m pb : Bool) (err : Option CharError) (ks : List Completion)
    (r : Receiver) : PortState :=
  { (s.seen p v m pb err).port p with receiver := r, completions := (s.port p).completions ++ ks }

theorem exec_opened {d : DescNo} {b : Bool} {q : Pool} (starts : StartsTelegram p s m err ks) (value : w = takenValue v err)
    (width : (s.port p).charFormat.width = .eight ∨ v.toNat ≤ 0x7F)
    (taken : s.pool.openTelegram p w (addressDamage ((s.port p).charFormat.taken v m pb err) (s.exchanges.late p w))
      = some (d, b, q)) :
    exec (.characterReport p v m pb err) s = .next
      ((((s.seen p v m pb err).withTable (addressTold p w s.exchanges)).withPool q).setPort p
        (s.takenPort p v m pb err ks (.inTelegram d b))) := by
  obtain ⟨pool, exchanges, -⟩ := seen_blocks s p v m pb err
  rw [exec_starts v pb starts, addressCharacter_opened ((taken_value _ v m pb err width).trans value.symm)
    (by rw [State.setPort_pool, State.setPort_exchanges, pool, exchanges]; exact taken), State.setPort_port]
  rw [State.setPort_exchanges, exchanges]
  exact congrArg Host.Outcome.next
    (State.setPort_setPort (((s.seen p v m pb err).withTable (addressTold p w s.exchanges)).withPool q) p _ _)

theorem exec_refused (starts : StartsTelegram p s m err ks) (value : w = takenValue v err)
    (width : (s.port p).charFormat.width = .eight ∨ v.toNat ≤ 0x7F) (exhausted : s.pool.freeDescriptor? = none) :
    exec (.characterReport p v m pb err) s = .next
      ((((s.seen p v m pb err).withTable (addressTold p w s.exchanges)).withNotices
          (s.notices.post .descriptorExhausted (some p) (some w) none)).setPort p
        (s.takenPort p v m pb err ks (.discarding w 1))) := by
  obtain ⟨pool, exchanges, notices, -⟩ := seen_blocks s p v m pb err
  rw [exec_starts v pb starts, addressCharacter_refused ((taken_value _ v m pb err width).trans value.symm)
    (by rw [State.setPort_pool, pool]; exact exhausted), State.setPort_port]
  rw [State.setPort_exchanges, State.setPort_notices, exchanges, notices]
  exact congrArg Host.Outcome.next
    (State.setPort_setPort (((s.seen p v m pb err).withTable (addressTold p w s.exchanges)).withNotices
      (s.notices.post .descriptorExhausted (some p) (some w) none)) p _ _)

end

/-! ### The line and the rest of the port after a report -/

section
variable {s : State} {p : Port} {v : Chr} {m pb : Bool} {err : Option CharError}

/-- After a report the mark span starts again and the line is not RELEASED (R115, R127). -/
theorem reported_busy (x : PortState) (f : FormatRecord) (r : CharReport) (sound : x.rxPin = .space → x.monitor ≠ .released) :
    (x.reported f r).markSpan = 0 ∧ (x.reported f r).monitor ≠ .released := by
  have busy : ∀ l : LineMonitor, (if l = .released then LineMonitor.busy else l) ≠ .released := by
    intro l
    cases l <;> exact LineMonitor.noConfusion
  unfold PortState.reported
  split
  · refine ⟨rfl, ?_⟩
    cases pin : x.rxPin with
    | mark => exact busy x.monitor
    | space => exact sound pin
  · exact ⟨rfl, busy _⟩

theorem seen_busy (sound : (s.port p).rxPin = .space → (s.port p).monitor ≠ .released) :
    ((s.seen p v m pb err).port p).markSpan = 0 ∧ ((s.seen p v m pb err).port p).monitor ≠ .released := by
  rw [seen_port]
  exact reported_busy _ _ _ sound

/-- What a report leaves of the port besides the line. -/
theorem seen_kept : ((s.seen p v m pb err).port p).counters = (s.port p).counters
    ∧ ((s.seen p v m pb err).port p).scheduler = (s.port p).scheduler
    ∧ ((s.seen p v m pb err).port p).completions = (s.port p).completions
    ∧ ((s.seen p v m pb err).port p).receiver = (s.port p).receiver := by
  rw [seen_port_line]
  exact ⟨rfl, rfl, rfl, rfl⟩

theorem taken_error (f : FormatRecord) : (f.taken v m pb err).error = err := fitReport_error f _

end

theorem addressDamage_taken {x : ExchangeMonitor} (sound : OnePerPair x.records) {p : Port} {w : Chr} (f : FormatRecord)
    (v : Chr) (m pb : Bool) {err : Option CharError} :
    addressDamage (f.taken v m pb err) (x.late p w) = (err.map CharError.damage).or (lateMark p w x) := by
  rw [addressDamage_eq sound, taken_error]

/-! ### Body characters -/

section
variable {s : State} {p : Port} (v : Chr) (m pb : Bool) (err : Option CharError) {d : DescNo}

/-- The pool once the body character's own fault has been recorded (R82). -/
abbrev State.faulted (s : State) (d : DescNo) (err : Option CharError) : Pool :=
  s.pool.recordDamage d (err.map CharError.damage)

theorem faulted_descriptor (s : State) (d : DescNo) (err : Option CharError) : (s.faulted d err).descriptor d
    = { s.pool.descriptor d with damage := (s.pool.descriptor d).damage.or (err.map CharError.damage) } :=
  Pool.setDescriptor_same _ _ _

/-- A character of a telegram still stored, or no longer stored (R81 to R83, R120). -/
theorem exec_body {b : Bool} (receiver : (s.port p).receiver = .inTelegram d b)
    (body : (s.port p).charFormat.framing = .idleLine ∨ m = false ∨ err = some .brk) :
    exec (.characterReport p v m pb err) s = .next
      (if b then
        ((s.seen p v m pb err).withPool
            ((s.faulted d err).storeBody d ((s.port p).charFormat.taken v m pb err).value).2).setPort p
          { (s.seen p v m pb err).port p with
            receiver := .inTelegram d ((s.faulted d err).storeBody d ((s.port p).charFormat.taken v m pb err).value).1 }
      else (s.seen p v m pb err).withPool (s.faulted d err)) := by
  rw [exec_characterReport]
  have unmarked := taken_unmarked (s.port p).charFormat v m pb err body
  have receiver' : ((s.seen p v m pb err).port p).receiver = .inTelegram d b := seen_kept.2.2.2.trans receiver
  have pool := (seen_blocks s p v m pb err).1
  unfold State.receiveCharacter
  dsimp only
  rw [receiver']
  dsimp only
  rw [unmarked, if_neg Bool.false_ne_true]
  unfold State.bodyCharacter
  rw [pool, taken_error]
  rfl

/-! ### Characters set aside -/

/-- SETTLING and OFF set characters aside, and a receiver between or without telegrams counts them (R117, R119, R124). -/
theorem exec_aside {rc : Receiver} {k : Counters}
    (aside : ((s.port p).receiver = .off ∨ (s.port p).receiver = .settling) ∧ rc = (s.port p).receiver
          ∧ k = (s.port p).counters
      ∨ (s.port p).receiver = .idle ∧ ((s.port p).charFormat.framing = .addressBit ∧ m = false) ∧ rc = .idle
          ∧ k = (s.port p).counters.addRxDiscarded
      ∨ (∃ a n, (s.port p).receiver = .discarding a n ∧ rc = .discarding a (min 256 (n + 1)))
          ∧ ((s.port p).charFormat.framing = .idleLine ∨ m = false) ∧ k = (s.port p).counters) :
    exec (.characterReport p v m pb err) s = .next
      ((s.seen p v m pb err).setPort p { (s.seen p v m pb err).port p with receiver := rc, counters := k }) := by
  rw [exec_characterReport]
  obtain ⟨counters, -, -, receiver⟩ := seen_kept (s := s) (p := p) (v := v) (m := m) (pb := pb) (err := err)
  have opened := taken_opens (s.port p).charFormat v m pb err
  have unmarked := taken_unmarked (s.port p).charFormat v m pb err
  generalize s.seen p v m pb err = u at counters receiver ⊢
  unfold State.receiveCharacter
  dsimp only
  obtain ⟨k | k, rfl, rfl⟩ | ⟨k, ⟨framing, bare⟩, rfl, rfl⟩ | ⟨⟨a, n, k, rfl⟩, bare, rfl⟩ := aside
  · rw [← counters, ← receiver]
    rw [k] at receiver
    rw [receiver]
    dsimp only
    rw [← receiver]
    change _ = Host.Outcome.next (u.setPort p (u.port p))
    rw [State.setPort_same]
  · rw [← counters, ← receiver]
    rw [k] at receiver
    rw [receiver]
    dsimp only
    rw [← receiver]
    change _ = Host.Outcome.next (u.setPort p (u.port p))
    rw [State.setPort_same]
  · have shut : (!(s.port p).charFormat.hasMarker || ((s.port p).charFormat.taken v m pb err).marker) = false := by
      rw [← Bool.not_eq_true, opened]
      rintro (plain | ⟨marked, _⟩)
      · rw [framing] at plain; cases plain
      · rw [bare] at marked; cases marked
    rw [k] at receiver
    rw [receiver]
    dsimp only
    rw [shut, if_neg Bool.false_ne_true, ← counters, ← receiver]
    rfl
  · rw [receiver, k]
    dsimp only
    rw [unmarked (bare.imp_right .inl), if_neg Bool.false_ne_true, ← counters]
    rfl

end

/-! ### The statements -/

section
variable {s : State} {p : Port} {d : DescNo} {c : CellNo} {v : Chr} {err : Option CharError}

theorem storedKept_writeCell {t : State} {a : Nat} (h : t.pool.cells = writeCell s.pool.cells a v) : StoredKept a 1 s t := by
  intro b away
  rw [h]
  exact readCell_writeCell_other v (by omega) _

end

/-- Settles O9, from what one report does to the line and what an address character takes of the pool. -/
theorem addressCharacterOpensTelegram : Obligations.AddressCharacterOpensTelegram := by
  intro p s v w m pb err d c rest ks canonical sound space starts value width found free
  obtain ⟨-, -, notices, -⟩ := seen_blocks s p v m pb err
  obtain ⟨counters, scheduler, -, -⟩ := seen_kept (s := s) (p := p) (v := v) (m := m) (pb := pb) (err := err)
  obtain ⟨span, busy⟩ := seen_busy (v := v) (m := m) (pb := pb) (err := err) (space p)
  rw [exec_opened starts value width (Pool.openTelegram_cell found free)]
  refine ⟨_, rfl, ?_⟩
  rw [State.scheduler_def, State.setPort_port]
  refine ⟨rfl, ?_, fun k other => Pool.setDescriptor_other _ _ other, rfl, ?_, storedKept_writeCell rfl, rfl,
    seen_charReceiver s p v m pb err, busy, span, counters, scheduler, lineSeen_setPort s p v m pb err _, rfl, notices⟩
  · rw [← addressDamage_taken sound.2 (s.port p).charFormat v m pb]
    exact Pool.setDescriptor_same _ _ _
  · exact readCell_writeCell_self _ _ canonical

/-- Settles O10: no descriptor, no room or no cell for a body character, no cell for an address character. -/
theorem storageExhaustionIsRecorded : Obligations.StorageExhaustionIsRecorded := by
  refine ⟨?_, ?_, ?_⟩
  · intro p s v w m pb err ks starts value width exhausted
    obtain ⟨pool, -, -, -⟩ := seen_blocks s p v m pb err
    obtain ⟨counters, scheduler, -, -⟩ := seen_kept (s := s) (p := p) (v := v) (m := m) (pb := pb) (err := err)
    rw [exec_refused starts value width exhausted]
    refine ⟨_, rfl, ?_⟩
    rw [State.scheduler_def, State.setPort_port]
    exact ⟨rfl, rfl, seen_charReceiver s p v m pb err, rfl, rfl, pool, scheduler, counters,
      lineSeen_setPort s p v m pb err _⟩
  · intro p s v m pb err d receiver body stops
    obtain ⟨-, exchanges, notices, -⟩ := seen_blocks s p v m pb err
    obtain ⟨counters, scheduler, completions, -⟩ := seen_kept (s := s) (p := p) (v := v) (m := m) (pb := pb) (err := err)
    have faulted := faulted_descriptor s d err
    rw [exec_body v m pb err receiver body, if_pos rfl, Pool.storeBody_stops _ (by rw [faulted]; exact stops), faulted]
    refine ⟨_, rfl, ?_⟩
    rw [State.scheduler_def, State.setPort_port]
    refine ⟨?_, ?_, rfl, rfl, rfl, seen_charReceiver s p v m pb err, counters, completions, scheduler,
      lineSeen_setPort s p v m pb err _, exchanges, notices⟩
    · refine (Pool.setDescriptor_same _ d _).trans ?_
      rw [faulted]
    · intro k other
      exact (Pool.setDescriptor_other _ _ other).trans (Pool.setDescriptor_other _ _ other)
  · intro p s v w m pb err d ks sound starts value width found free
    obtain ⟨-, -, notices, -⟩ := seen_blocks s p v m pb err
    obtain ⟨counters, scheduler, -, -⟩ := seen_kept (s := s) (p := p) (v := v) (m := m) (pb := pb) (err := err)
    rw [exec_opened starts value width (Pool.openTelegram_noCell found free)]
    refine ⟨_, rfl, ?_⟩
    rw [State.scheduler_def, State.setPort_port]
    refine ⟨rfl, ?_, fun k other => Pool.setDescriptor_other _ _ other, free, rfl, rfl, seen_charReceiver s p v m pb err,
      counters, scheduler, lineSeen_setPort s p v m pb err _, rfl, notices⟩
    rw [← addressDamage_taken sound.2 (s.port p).charFormat v m pb]
    exact Pool.setDescriptor_same _ _ _

/-- A character the receiver sets aside changes the line, the receiver and the counters alone. -/
theorem characterKept_seen (s : State) (p : Port) (v : Chr) (m pb : Bool) (err : Option CharError) (rc : Receiver)
    (k : Counters) : CharacterKept p s
      ((s.seen p v m pb err).setPort p { (s.seen p v m pb err).port p with receiver := rc, counters := k }) := by
  obtain ⟨pool, exchanges, notices, -⟩ := seen_blocks s p v m pb err
  obtain ⟨counters, scheduler, completions, -⟩ := seen_kept (s := s) (p := p) (v := v) (m := m) (pb := pb) (err := err)
  obtain ⟨others, -, routes, agent, straps, pending⟩ := lineSeen_setPort s p v m pb err
    { (s.seen p v m pb err).port p with receiver := rc, counters := k }
  refine ⟨others, pool, exchanges, notices, routes, agent, straps, pending, ?_, ?_⟩
  · rw [State.scheduler_def, State.setPort_port]
    exact scheduler
  · rw [State.setPort_port]
    exact completions

/-- Settles O11: the stored character of any framing, with the plain one as a case of it, the character of a telegram
whose storing has stopped, and those set aside. -/
theorem bodyCharacterIsStored : Obligations.BodyCharacterIsStored := by
  unfold Obligations.BodyCharacterIsStored
  rw [← and_assoc]
  refine ⟨?_, ?_, ?_⟩
  · rw [and_iff_right_of_imp]
    · intro p s v m pb err d c canonical receiver body width room cells next
      have taken := taken_value (s.port p).charFormat v m pb err width
      obtain ⟨-, exchanges, notices, -⟩ := seen_blocks s p v m pb err
      obtain ⟨counters, scheduler, completions, -⟩ := seen_kept (s := s) (p := p) (v := v) (m := m) (pb := pb) (err := err)
      have after := seen_charReceiver s p v m pb err
      have faulted := faulted_descriptor s d err
      have next' : (s.faulted d err).NextCell d c := by
        unfold Pool.NextCell
        rw [faulted]
        exact next
      have cells' : ((s.faulted d err).descriptor d).cells.length = (((s.faulted d err).descriptor d).length + 31) / 32 := by
        rw [faulted]
        exact cells
      have place : ((s.faulted d err).descriptor d).length = (s.pool.descriptor d).length := by rw [faulted]
      have wf : cellsWf (s.faulted d err).cells = true := canonical
      have char := Pool.stored_charAt wf (takenValue v err) next' cells'
      have written : ((s.faulted d err).stored d c (takenValue v err)).cells
          = writeCell s.pool.cells (c.val * 32 + ((s.faulted d err).descriptor d).length % 32) (takenValue v err) := rfl
      rw [place] at char written
      rw [exec_body v m pb err receiver body, if_pos rfl, taken, Pool.storeBody_stores _ (place ▸ room) next' cells']
      refine ⟨_, rfl, ?_⟩
      rw [State.scheduler_def, State.setPort_port]
      refine ⟨?_, ?_, ?_, ?_, ?_, rfl, after, counters, completions, scheduler, lineSeen_setPort s p v m pb err _, exchanges,
        notices⟩
      · refine (Pool.stored_descriptor _).trans ?_
        rw [faulted]
      · change (if ((s.faulted d err).descriptor d).length % 32 = 0 then _ else _) = _
        rw [place]
        rfl
      · exact char
      · exact storedKept_writeCell written
      · intro k other
        exact (Pool.stored_other _ other).trans (Pool.setDescriptor_other _ _ other)
    · intro every p s v pb err d c canonical receiver framing width mild room cells next
      have whole : err ≠ some .framing ∧ err ≠ some .brk := by
        obtain rfl | rfl := mild <;> exact ⟨nofun, nofun⟩
      have value : takenValue v err = v := if_neg whole.2
      obtain ⟨t, run, descriptor, free, char, kept, others, receiver', -, counters, -, scheduler, line, exchanges, notices⟩ :=
        every p s v false pb err d c canonical receiver (.inl framing) width room cells next
      rw [value] at descriptor char
      exact ⟨t, run, descriptor, free, char, kept, others, receiver', counters, scheduler, line.markKept whole, exchanges,
        notices⟩
  · intro p s v m pb err d receiver body
    obtain ⟨-, exchanges, notices, -⟩ := seen_blocks s p v m pb err
    obtain ⟨counters, scheduler, completions, receiver'⟩ :=
      seen_kept (s := s) (p := p) (v := v) (m := m) (pb := pb) (err := err)
    have line := lineSeen_setPort s p v m pb err ((s.seen p v m pb err).port p)
    rw [State.setPort_same] at line
    rw [exec_body v m pb err receiver body, if_neg Bool.false_ne_true]
    exact ⟨_, rfl, faulted_descriptor s d err, fun k other => Pool.setDescriptor_other _ _ other, rfl, rfl,
      receiver'.trans receiver, seen_charReceiver s p v m pb err, counters, completions, scheduler, line, exchanges, notices⟩
  · intro p s v m pb err bounded
    have after := seen_charReceiver s p v m pb err
    have aside := fun rc k => exec_aside (s := s) (p := p) v m pb err (rc := rc) (k := k)
    have kept := characterKept_seen s p v m pb err
    rw [exec_characterReport] at aside ⊢
    generalize (s.seen p v m pb err).receiveCharacter p _ _ = t at aside ⊢
    have down := fun k => Host.Outcome.next.inj (aside (s.port p).receiver (s.port p).counters (.inl ⟨k, rfl, rfl⟩))
    have idle := fun k framing bare =>
      Host.Outcome.next.inj (aside .idle (s.port p).counters.addRxDiscarded (.inr (.inl ⟨k, ⟨framing, bare⟩, rfl, rfl⟩)))
    have discarding := fun a n k bare => Host.Outcome.next.inj
      (aside (.discarding a (min 256 (n + 1))) (s.port p).counters (.inr (.inr ⟨⟨a, n, k, rfl⟩, bare, rfl⟩)))
    refine ⟨t, rfl, fun k => ?_, fun k => ?_, fun k framing bare => ?_, fun a n k bare => ?_⟩
    · have set : ∃ rc k, t = (s.seen p v m pb err).setPort p
          { (s.seen p v m pb err).port p with receiver := rc, counters := k } := by
        obtain k | k | ⟨k, framing, bare⟩ | ⟨⟨a, n, k⟩, bare⟩ := k
        · exact ⟨_, _, down (.inl k)⟩
        · exact ⟨_, _, down (.inr k)⟩
        · exact ⟨_, _, idle k framing bare⟩
        · exact ⟨_, _, discarding a n k bare⟩
      obtain ⟨rc, k, rfl⟩ := set
      refine ⟨kept rc k, ?_⟩
      rw [State.setPort_port]
      exact after
    · rw [down k, State.setPort_port]
      exact ⟨rfl, rfl⟩
    · rw [idle k framing bare, State.setPort_port]
      refine ⟨rfl, ?_⟩
      rw [← bump_eq_min bounded]
      rfl
    · rw [discarding a n k bare, State.setPort_port]
      exact ⟨rfl, rfl⟩

end Sys2Proof.Machine
end

section
/-! PROOFS. The destination filter (R41, R42) and the Route Table Unit's own events (R10 to R12, R15, R20 to R22). -/

namespace Sys2Proof.Machine

/-! ### The destination filter -/

section
variable {s : State} {p : Port} {e : QueueEntry} {line : Chr} {wide : Bool}

theorem queueFull_iff : s.queueFull p = true
    ↔ p = .trunk ∧ 15 ≤ ((s.scheduler p).queue.filter fun x => decide (x.desc ≠ 0)).length
      ∨ p ≠ .trunk ∧ 16 ≤ (s.scheduler p).queue.length := by
  cases p with
  | trunk => simp [State.queueFull, Config.trunkOrdinary]
  | b1 | b2 | b3 | b4 => simp [State.queueFull, Config.queueSize]

theorem filter_down (h : (s.port p).admin ≠ .active) : s.filter p line wide = some .portDown := by
  unfold State.filter
  rw [if_pos h]

theorem filter_width (up : (s.port p).admin = .active) (seven : (s.port p).format.width = .seven)
    (h : 0x7F < line.toNat ∨ wide = true) : s.filter p line wide = some .width := by
  unfold State.filter
  rw [if_neg (not_not.mpr up), if_pos ⟨seven, h⟩]

/-- An ACTIVE port that the width lets pass is looked at for room alone. -/
theorem filter_fits (up : (s.port p).admin = .active)
    (fits : (s.port p).format.width = .eight ∨ line.toNat ≤ 0x7F ∧ wide = false) :
    s.filter p line wide = if s.queueFull p then some .queueFull else none := by
  unfold State.filter
  rw [if_neg (not_not.mpr up), if_neg]
  rintro ⟨seven, high | set⟩
  · obtain k | ⟨low, _⟩ := fits
    · rw [seven] at k; cases k
    · exact absurd low (Nat.not_le.mpr high)
  · obtain k | ⟨_, clear⟩ := fits
    · rw [seven] at k; cases k
    · rw [set] at clear; cases clear

theorem offerTo_omitted {why : OmitReason} (h : s.filter p e.line wide = some why) :
    s.offerTo p e wide = (s.post .destOmitted (some p) (some e.line) (some why.code), false) := by
  unfold State.offerTo
  rw [h]

theorem offerTo_taken (h : s.filter p e.line wide = none) : s.offerTo p e wide = (s.enqueue p e, true) := by
  unfold State.offerTo
  rw [h]

end

/-- Settles O25, by the filter's branches in their order. -/
theorem filterReasonsInOrder : Obligations.FilterReasonsInOrder := by
  intro s p e wide
  refine ⟨fun down => offerTo_omitted (filter_down down), fun up seven high => offerTo_omitted (filter_width up seven high),
    fun up fits full => offerTo_omitted (why := .queueFull) ?_, fun up fits room => ?_⟩
  · rw [filter_fits up fits, if_pos (queueFull_iff.mpr full)]
  · have room' : ¬ s.queueFull p = true := by
      rw [queueFull_iff]
      rintro (⟨h, full⟩ | ⟨h, full⟩)
      · obtain ⟨_, k⟩ | ⟨k, _⟩ := room
        · exact absurd full (Nat.not_le.mpr k)
        · exact k h
      · obtain ⟨k, _⟩ | ⟨_, k⟩ := room
        · exact h k
        · exact absurd full (Nat.not_le.mpr k)
    rw [offerTo_taken (by rw [filter_fits up fits, if_neg room'])]
    obtain ⟨-, -, queue, pool, -⟩ := enqueue_spec s p e
    refine ⟨rfl, queue, ?_⟩
    rw [pool, Pool.addRef, Pool.setDescriptor_same]

/-! ### COUNT_REPORT -/

/-- The entry a count report leaves of `x`. -/
def Counted.entry (x : RouteEntry) : Counted → RouteEntry
  | .unchanged => x
  | .counted y | .retired y | .reloaded y _ => y

/-- The notices a count report leaves (R20, R21). -/
def Counted.notices (p : Port) (a : Chr) (q : NoticeQueue) : Counted → NoticeQueue
  | .unchanged | .counted _ => q
  | .retired _ => q.post .allowanceRetired (some p) (some a) none
  | .reloaded _ n => q.post .allowanceReloaded (some p) (some a) (some (BitVec.ofNat 16 n))

section
variable {x : RouteEntry} {al : Allowance}

theorem count_unchanged (h : x.allowance = none ∨ x.retired = true) : x.count = .unchanged := by
  unfold RouteEntry.count
  cases k : x.allowance with
  | none => rfl
  | some al =>
    have retired : x.retired = true := h.resolve_left (by rw [k]; exact nofun)
    simp [retired]

theorem count_spends (h : x.allowance = some al) (live : x.retired = false) (more : 1 < al.count) :
    x.count = .counted { x with allowance := some { al with count := al.count - 1 } } := by
  unfold RouteEntry.count
  rw [h]
  dsimp only
  rw [live, if_neg Bool.false_ne_true, if_pos (by omega)]

theorem count_ends (h : x.allowance = some al) (live : x.retired = false) (last : al.count = 1) :
    x.count = match al.mode with
      | .retire => .retired { x with allowance := some { al with count := 0 }, retired := true }
      | .reload => .reloaded { x with allowance := some { al with count := al.reload } } al.reload := by
  unfold RouteEntry.count
  rw [h]
  dsimp only
  rw [live]
  refine (if_neg Bool.false_ne_true).trans ((if_neg (by omega)).trans ?_)
  cases al.mode <;> rfl

end

/-- A report counts against the entry of its key, where the active bank is split at it (R20). -/
theorem takeCount_eq {s : State} {pre post : List RouteEntry} {x : RouteEntry} (bank : s.routes.activeBank = pre ++ x :: post)
    (ordered : KeyOrdered (pre ++ x :: post)) : s.takeCount x.arrival x.address
      = (s.withRoutes (s.routes.setActive (pre ++ x.count.entry x :: post))).withNotices
          (x.count.notices x.arrival x.address s.notices) := by
  unfold State.takeCount
  rw [bank, findEntry_split ordered]
  dsimp only
  cases k : x.count with
  | unchanged =>
    dsimp only [Counted.entry, Counted.notices]
    rw [← bank, RouteUnit.setActive_same]
  | counted y =>
    dsimp only
    rw [changeEntry_split ordered]
    rfl
  | retired y =>
    dsimp only
    rw [changeEntry_split ordered]
    rfl
  | reloaded y n =>
    dsimp only
    rw [changeEntry_split ordered]
    rfl

/-- The reports that wait stand apart from the banks. -/
theorem RouteUnit.setActive_countReports (r : RouteUnit) (es : List RouteEntry) (c : List CountReport) :
    RouteUnit.setActive { r with countReports := c } es = { r.setActive es with countReports := c } := by
  cases r with
  | mk first second active shadow v q w => cases active <;> rfl

theorem RouteUnit.activeBank_countReports (r : RouteUnit) (c : List CountReport) :
    RouteUnit.activeBank { r with countReports := c } = r.activeBank := rfl

/-- Settles O26, by what a count report does to the one entry of its key. -/
theorem countReportSpendsAllowance : Obligations.CountReportSpendsAllowance := by
  rintro b p a s pre post x al bank rfl rfl sound
  have ordered : KeyOrdered (pre ++ x :: post) := bank ▸ sound.bank_ordered _
  have run : exec (.countReport b x.arrival x.address) s = .next
      ((s.withNotices ((if b = s.routes.active then x.count else .unchanged).notices x.arrival x.address s.notices)).withRoutes
        { s.routes.setActive (pre ++ (if b = s.routes.active then x.count else .unchanged).entry x :: post) with
          countReports := s.routes.countReports.erase ⟨b, x.arrival, x.address⟩ }) := by
    change execCountReport b x.arrival x.address s = _
    unfold execCountReport
    by_cases active : b = s.routes.active
    · dsimp only
      rw [if_pos active, if_pos active]
      have taken := takeCount_eq
        (s := s.withRoutes { s.routes with countReports := s.routes.countReports.erase ⟨b, x.arrival, x.address⟩ }) bank
        ordered
      rw [RouteUnit.setActive_countReports] at taken
      exact congrArg Host.Outcome.next taken
    · dsimp only [Counted.notices, Counted.entry]
      rw [if_neg active, if_neg active]
      dsimp only
      rw [← bank, RouteUnit.setActive_same]
  refine ⟨_, run, ?_⟩
  rw [RouteUnit.activeBank_countReports, RouteUnit.setActive_activeBank]
  refine ⟨rfl, fun other => ?_, fun active allowed live more => ?_, fun active allowed live last mode => ?_,
    fun active allowed live last mode => ?_⟩
  · have unchanged : (if b = s.routes.active then x.count else .unchanged) = .unchanged := by
      by_cases active : b = s.routes.active
      · rw [if_pos active, count_unchanged (other.resolve_left (not_not.mpr active))]
      · rw [if_neg active]
    rw [unchanged]
    exact ⟨rfl, rfl⟩
  · rw [if_pos active, count_spends allowed live more]
    exact ⟨rfl, rfl⟩
  · rw [if_pos active, count_ends allowed live last, mode]
    exact ⟨rfl, rfl⟩
  · rw [if_pos active, count_ends allowed live last, mode]
    exact ⟨rfl, rfl⟩

/-! ### Validation -/

theorem DataWidth.fits_iff (w : DataWidth) (a : Chr) : w.fits a = true ↔ ¬(w = .seven ∧ 0x7F < a.toNat) := by
  cases w with
  | seven => simp [DataWidth.fits]
  | eight => simp [DataWidth.fits]

section
variable (e : RouteEntry) (w : PerPort DataWidth)

theorem conflict_key : e.conflict w = some .widthKey ↔ w.get e.arrival = .seven ∧ 0x7F < e.address.toNat := by
  rw [← not_iff_not, ← DataWidth.fits_iff]
  unfold RouteEntry.conflict
  cases (w.get e.arrival).fits e.address with
  | false => simp
  | true =>
    simp only [Bool.not_true, Bool.false_eq_true, if_false, iff_true]
    split <;> simp

theorem conflict_egress : e.conflict w = some .widthEgress ↔
    ¬(w.get e.arrival = .seven ∧ 0x7F < e.address.toNat)
      ∧ 0x7F < (e.egress.getD e.address).toNat ∧ ∃ q, e.destinations.get q = true ∧ w.get q = .seven := by
  rw [← DataWidth.fits_iff]
  unfold RouteEntry.conflict
  cases (w.get e.arrival).fits e.address with
  | false => simp
  | true =>
    simp only [Bool.not_true, Bool.false_eq_true, if_false, true_and]
    have fail : ¬ e.destinationList.all (fun p => (w.get p).fits e.effectiveEgress) = true
        ↔ 0x7F < (e.egress.getD e.address).toNat ∧ ∃ q, e.destinations.get q = true ∧ w.get q = .seven := by
      rw [List.all_eq_true]
      simp only [DataWidth.fits_iff, RouteEntry.destinationList, List.mem_filter, Port.mem_all, true_and]
      push Not
      constructor
      · rintro ⟨q, reached, seven, high⟩
        exact ⟨high, q, reached, seven⟩
      · rintro ⟨high, q, reached, seven⟩
        exact ⟨q, reached, seven, high⟩
    rw [← fail]
    split
    · next all => simp [all]
    · next all => simp [all]

end

/-! ### The end of a reseed -/

theorem answerExecuting_none {s : State} (h : s.agent.executing = none) (code : Chr) (a : Answer) :
    s.answerExecuting code a = s := by
  unfold State.answerExecuting
  rw [h]

theorem answerExecuting_some {s : State} {id : RequestId} {code : Chr} (h : s.agent.executing = some id) (named : id.code = code)
    (a : Answer) : s.answerExecuting code a = s.buildReply id a := by
  unfold State.answerExecuting
  rw [h]
  exact if_pos named

theorem answerExecuting_routes (s : State) (code : Chr) (a : Answer) : (s.answerExecuting code a).routes = s.routes := by
  unfold State.answerExecuting
  split
  · split
    · exact (buildReply_ripple s _ a).routes
    · rfl
  · rfl

theorem endReseed_open {s : State} (h : s.routes.reseedPos < s.routes.activeBank.length) : s.endReseed = s := by
  unfold State.endReseed RouteUnit.reseedDone
  rw [if_neg (by simpa using h)]

theorem endReseed_done {s : State} (h : s.routes.activeBank.length ≤ s.routes.reseedPos) :
    s.endReseed = (s.withRoutes { s.routes with shadow := .clean }).answerExecuting 0x0C
      (Answer.okWith [natChr s.routes.shadowBank.length]) := by
  unfold State.endReseed RouteUnit.reseedDone
  rw [if_pos (by simpa using h)]
  rfl

theorem natChr_eq (n : Nat) : natChr n = BitVec.ofNat 8 n := rfl

/-- Settles O27: the two checks, and the step that passes an entry, fails it or swaps the banks. -/
theorem validationChecksShadow : Obligations.ValidationChecksShadow := by
  refine ⟨fun e w => ⟨conflict_key e w, conflict_egress e w⟩, fun s x id canonical validating entry executing named => ?_⟩
  have run : exec .validationStep s = .next (match x.conflict s.widths with
      | some why => s.commitConflict x why
      | none => if s.routes.validatePos + 1 < s.routes.shadowBank.length then
          s.withRoutes { s.routes with validatePos := s.routes.validatePos + 1 }
        else (s.withRoutes { s.routes with validatePos := s.routes.validatePos + 1 }).commitSwap) := by
    change execValidationStep s = _
    unfold execValidationStep
    rw [if_pos validating, entry]
    dsimp only
    cases x.conflict s.widths <;> rfl
  refine ⟨_, run, fun why fails => ?_, fun passes more => ?_, fun passes last => ?_⟩
  · rw [fails]
    dsimp only
    have answered := answerExecuting_some (s := s.withRoutes { s.routes with shadow := .edited }) executing named
      ⟨.conflict, [x.arrival.toChr, x.address, why.code]⟩
    have replied := buildReply_replied (s.withRoutes { s.routes with shadow := .edited }) id
      ⟨.conflict, [x.arrival.toChr, x.address, why.code]⟩ canonical (by simp)
    rw [← answered] at replied
    exact replied
  · rw [passes]
    exact if_pos more
  · rw [passes]
    dsimp only
    rw [if_neg (Nat.not_lt.mpr last)]
    generalize hr : ({ s.routes with validatePos := s.routes.validatePos + 1 } : RouteUnit) = r
    have same : r.shadowBank = s.routes.shadowBank ∧ r.active = s.routes.active ∧ r.countReports = s.routes.countReports := by
      rw [← hr]
      exact ⟨rfl, rfl, rfl⟩
    obtain ⟨bank, active, reports⟩ := same
    obtain ⟨swapBank, swapShadow, swapActive, swapState, swapPos, swapReports⟩ := r.swap_spec
    have unreseeded : r.swap.reseedPos < r.swap.activeBank.length := by
      rw [swapPos, swapBank, bank]
      exact Nat.zero_lt_of_lt (List.getElem?_eq_some_iff.mp entry).1
    have done : (s.withRoutes r).commitSwap
        = (s.withRoutes r.swap).buildReply id (Answer.okWith [natChr s.routes.shadowBank.length]) := by
      change ((s.withRoutes r.swap).answerExecuting 0x0B
        (Answer.okWith [natChr r.swap.activeBank.length])).endReseed = _
      rw [endReseed_open (by rw [answerExecuting_routes]; exact unreseeded), answerExecuting_some (s := s.withRoutes r.swap) executing named,
        swapBank, bank]
    have replied := buildReply_replied (s.withRoutes r.swap) id (Answer.okWith [natChr s.routes.shadowBank.length]) canonical
      (by simp [Answer.okWith])
    rw [done]
    have routes := replied.routes
    rw [routes]
    refine ⟨swapBank.trans bank, ?_, swapState, swapShadow, swapPos, swapReports.trans reports, replied⟩
    change r.swap.active ≠ _
    rw [swapActive, active]
    exact BankId.other_ne _

/-- Settles O28: the copy, and the end of the reseed where it was the last. -/
theorem reseedCopiesActive : Obligations.ReseedCopiesActive := by
  intro s x canonical reseeding entry
  have run : exec .reseedCopy s = .next (s.withRoutes s.routes.copyNext).endReseed := by
    change execReseedCopy s = _
    unfold execReseedCopy
    exact if_pos reseeding
  rw [RouteUnit.copyNext_some entry] at run
  generalize hr : ({ (s.routes.setShadow (s.routes.shadowBank ++ [x])) with
    reseedPos := s.routes.reseedPos + 1 } : RouteUnit) = r at run
  have shadowBank : r.shadowBank = s.routes.shadowBank ++ [x] := by
    rw [← hr]
    exact RouteUnit.setShadow_shadowBank _ _
  have activeBank : r.activeBank = s.routes.activeBank := by
    rw [← hr]
    exact RouteUnit.setShadow_activeBank _ _
  have active : r.active = s.routes.active := by
    rw [← hr]
    exact RouteUnit.setBank_active _ _ _
  have pos : r.reseedPos = s.routes.reseedPos + 1 := by rw [← hr]
  refine ⟨_, run, ?_⟩
  obtain more | last := Nat.lt_or_ge (s.routes.reseedPos + 1) s.routes.activeBank.length
  · rw [endReseed_open (s := s.withRoutes r) (by rw [← pos, ← activeBank] at more; exact more)]
    exact ⟨shadowBank, activeBank, active, fun _ => rfl, fun k => absurd more (Nat.not_lt.mpr k),
      fun _ k => absurd more (Nat.not_lt.mpr k)⟩
  · have ended := endReseed_done (s := s.withRoutes r) (by rw [← pos, ← activeBank] at last; exact last)
    have data : natChr r.shadowBank.length = BitVec.ofNat 8 (s.routes.shadowBank.length + 1) := by
      rw [shadowBank, List.length_append]
      rfl
    change _ = (s.withRoutes { r with shadow := .clean }).answerExecuting 0x0C (Answer.okWith [natChr r.shadowBank.length])
      at ended
    rw [data] at ended
    generalize hc : ({ r with shadow := .clean } : RouteUnit) = c at ended
    have same : c.shadow = .clean ∧ c.shadowBank = r.shadowBank ∧ c.activeBank = r.activeBank ∧ c.active = r.active := by
      rw [← hc]
      exact ⟨rfl, rfl, rfl, rfl⟩
    obtain ⟨clean, shadowKept, activeKept, rolesKept⟩ := same
    rw [ended, answerExecuting_routes]
    refine ⟨shadowKept.trans shadowBank, activeKept.trans activeBank, rolesKept.trans active,
      fun k => absurd k (Nat.not_lt.mpr last), fun _ idle => ?_, fun id _ executing named => ⟨clean, ?_⟩⟩
    · rw [answerExecuting_none (s := s.withRoutes c) idle]
      exact ⟨clean, rfl⟩
    · rw [answerExecuting_some (s := s.withRoutes c) executing named]
      exact buildReply_replied (s.withRoutes c) id _ canonical (by simp [Answer.okWith])

end Sys2Proof.Machine
end

section
/-! PROOFS. The Management Agent's gates and dispatch (R177 to R179), and the commands whose own operation is a line or
two: FORWARDING, RESTART, ENABLE, RECOVER, TABLE_COMMIT and TABLE_DISCARD. -/

namespace Sys2Proof.Machine

/-! ### The gates (R177, R178) -/

theorem agentBusy_iff (s : State) : s.agentBusy = true ↔ (s.pool.descriptor 0).refs ≠ 0 ∨ s.agent.executing ≠ none := by
  unfold State.agentBusy
  rw [Bool.or_eq_true, decide_eq_true_eq, Option.isSome_iff_ne_none]

/-- Settles O32: the overrun gate, and the replay that queues the kept reply once more. -/
theorem gatesDiscardAndReplay : Obligations.GatesDiscardAndReplay := by
  refine ⟨fun c id params s request busy => ?_, fun c id params s request unqueued idle kept => ?_⟩
  · rw [exec_request c id params s request, takeRequest_busy s id params ((agentBusy_iff s).mpr busy)]
    rfl
  · have free : s.agentBusy = false := by
      rw [← Bool.not_eq_true, agentBusy_iff]
      rintro (queued | executing)
      · exact queued unqueued
      · exact executing idle
    obtain ⟨others, line, queue, pool, blocks⟩ := enqueue_spec s .trunk { desc := 0, line := s.mgmtAddress, request := none }
    have exchanges := enqueue_exchanges s .trunk { desc := 0, line := s.mgmtAddress, request := none } rfl
    refine ⟨s.queueReply, ?_, queue, ?_, ?_, ?_, ?_, ?_, line, others, blocks, exchanges⟩
    · rw [exec_request c id params s request, takeRequest_replay s id params free kept]
    · exact (congrArg (Pool.telegram · 0) pool).trans (Pool.addRef_telegram _ _ 0)
    · refine (congrArg (Pool.descriptor · 0) pool).trans ((Pool.setDescriptor_same _ _ _).trans ?_)
      rw [unqueued]
    · exact fun d other => (congrArg (Pool.descriptor · d) pool).trans (Pool.setDescriptor_other _ _ other)
    · exact (congrArg Pool.cells pool).trans rfl
    · exact (congrArg Pool.free pool).trans rfl

/-! ### FORWARDING (R35) and RESTART (R187) -/

section
variable {s : State} {v : Chr}

theorem doForwarding_off (h : v = 0x00) :
    s.doForwarding v = (s.withAgent { s.agent with forwarding := false }, Answer.okWith []) := by
  subst h
  rfl

theorem doForwarding_on (h : v = 0x01) :
    s.doForwarding v = (s.withAgent { s.agent with forwarding := true }, Answer.okWith []) := by
  subst h
  rfl

theorem doForwarding_range (h : 1 < v.toNat) : s.doForwarding v = (s, Answer.refuse .range) := by
  unfold State.doForwarding
  split
  · omega
  · omega
  · rfl

end

theorem exec_forwarding {s : State} {seq v : Chr} (h : Ready s ⟨seq, 0x02⟩) :
    exec (.forwarding seq v) s =
      let r := (s.withAgent { s.agent with executing := some ⟨seq, 0x02⟩ }).doForwarding v
      .next (r.1.buildReply ⟨seq, 0x02⟩ r.2) :=
  (exec_ready (k := .forwarding) rfl h rfl rfl).trans rfl

/-- The state of an accepted RESTART: its reply, and the restart pending. -/
def State.restartAccepted (s : State) (id : RequestId) (k : RestartKind) : State :=
  let t := (s.withAgent { s.agent with executing := some id }).buildReply id (Answer.okWith [])
  t.withAgent { t.agent with restartPending := some k }

theorem execute_restart (s : State) (id : RequestId) (v : Chr) : s.execute .restart id [v] =
    if v = 0x00 then s.restartAccepted id .warm else if v = 0x01 then s.restartAccepted id .cold
      else (s.withAgent { s.agent with executing := some id }).buildReply id (Answer.refuse .range) := by
  change (match v.toNat with
    | 0 => s.restartAccepted id .warm
    | 1 => s.restartAccepted id .cold
    | _ => (s.withAgent { s.agent with executing := some id }).buildReply id (Answer.refuse .range)) = _
  split
  · next zero => rw [if_pos (BitVec.eq_of_toNat_eq zero)]
  · next one =>
    have is : v = 0x01 := BitVec.eq_of_toNat_eq one
    subst is
    rfl
  · next not0 not1 =>
    rw [if_neg, if_neg]
    · rintro rfl
      exact not1 rfl
    · rintro rfl
      exact not0 rfl

/-- But for the pending restart, an accepted RESTART is its reply. -/
theorem restartAccepted_replied {s : State} (w : CellsCanonical s) (id : RequestId) (k : RestartKind) :
    (s.restartAccepted id k).agent.restartPending = some k
      ∧ Replied s { s.restartAccepted id k with agent :=
          { (s.restartAccepted id k).agent with restartPending := s.agent.restartPending } } id ⟨.ok, []⟩ := by
  have replied := buildReply_executing (u := s) (id := id) (a := Answer.okWith []) (x := some id) w (Nat.zero_le _)
  unfold State.restartAccepted
  change Replied s ((s.withAgent { s.agent with executing := some id }).buildReply id (Answer.okWith [])) id _ at replied
  generalize (s.withAgent { s.agent with executing := some id }).buildReply id (Answer.okWith []) = t at replied ⊢
  have pending : t.agent.restartPending = s.agent.restartPending := by rw [replied.agent]
  refine ⟨rfl, ?_⟩
  rw [← pending]
  exact replied

/-- Settles O37, by the value of the parameter. -/
theorem forwardingAndRestartReplies : Obligations.ForwardingAndRestartReplies := by
  refine ⟨fun seq v s w ready => ⟨_, exec_forwarding ready, ?_, fun above => ?_⟩,
    fun seq v s w ready => ⟨_, exec_ready (k := .restart) rfl ready rfl rfl, ?_, fun above => ?_⟩⟩
  · rintro (rfl | rfl)
    · exact .of_result (u := s.withAgent { s.agent with forwarding := false }) (doForwarding_off rfl) w (Nat.zero_le _)
    · exact .of_result (u := s.withAgent { s.agent with forwarding := true }) (doForwarding_on rfl) w (Nat.zero_le _)
  · exact .of_result (doForwarding_range above) w (Nat.zero_le _)
  · rw [execute_restart]
    rintro (rfl | rfl)
    · exact restartAccepted_replied w _ .warm
    · exact restartAccepted_replied w _ .cold
  · rw [execute_restart, if_neg, if_neg]
    · exact buildReply_refused w
    · rintro rfl
      exact absurd above (by decide)
    · rintro rfl
      exact absurd above (by decide)

/-! ### ENABLE (R155) and RECOVER (R158) -/

section
variable {s : State} {p : Port}

theorem doEnable_disabled (branch : p ≠ .trunk) (h : (s.port p).admin = .disabled) :
    s.doEnable p = (s.activate p, Answer.okWith []) := by
  unfold State.doEnable
  rw [if_pos ((isBranch_iff).mpr branch), h]

theorem doEnable_active (branch : p ≠ .trunk) (h : (s.port p).admin = .active) : s.doEnable p = (s, Answer.okWith []) := by
  unfold State.doEnable
  rw [if_pos ((isBranch_iff).mpr branch), h]

theorem doEnable_state (h : p = .trunk ∨ (s.port p).admin = .faulted) : s.doEnable p = (s, Answer.refuse .state) := by
  unfold State.doEnable
  by_cases branch : p = .trunk
  · rw [if_neg (by rw [isBranch_iff]; exact not_not.mpr branch)]
  · rw [if_pos ((isBranch_iff).mpr branch), h.resolve_left branch]

theorem doRecover_mark (branch : p ≠ .trunk) (h : (s.port p).admin = .faulted) (mark : (s.port p).rxPin = .mark) :
    s.doRecover p = (s.activate p, Answer.okWith []) := by
  unfold State.doRecover
  rw [if_pos ⟨(isBranch_iff).mpr branch, h, mark⟩]

theorem doRecover_state (h : p = .trunk ∨ (s.port p).admin ≠ .faulted ∨ (s.port p).rxPin = .space) :
    s.doRecover p = (s, Answer.refuse .state) := by
  unfold State.doRecover
  rw [if_neg]
  rintro ⟨branch, faulted, mark⟩
  obtain k | k | k := h
  · exact (isBranch_iff).mp branch k
  · exact k faulted
  · rw [mark] at k; cases k

variable {v a : Chr}

theorem doPortControl_eq {r : State × Answer} (named : Port.ofChr v = some p)
    (h : (match a.toNat with
      | 0 => s.doEnable p | 1 => s.doDisable p | 2 => s.doRecover p | 3 => s.doPurge p
      | _ => (s, Answer.refuse .range)) = r) : s.doPortControl v a = r := by
  subst h
  unfold State.doPortControl
  rw [named]
  split <;> simp_all

theorem doPortControl_range (h : 4 < v.toNat ∨ 3 < a.toNat) : s.doPortControl v a = (s, Answer.refuse .range) := by
  unfold State.doPortControl
  obtain h | h := h
  · rw [Port.ofChr_above h]
  · split
    · omega
    · omega
    · omega
    · omega
    · rfl

end

theorem exec_portControl {s : State} {c : Instr} {seq v a : Chr} (request : c.requestOf = some (⟨seq, 0x05⟩, [v, a]))
    (h : Ready s ⟨seq, 0x05⟩) :
    exec c s =
      let r := (s.withAgent { s.agent with executing := some ⟨seq, 0x05⟩ }).doPortControl v a
      .next (r.1.buildReply ⟨seq, 0x05⟩ r.2) :=
  (exec_ready (k := .portControl) request h rfl rfl).trans rfl

theorem Port.ofChr_toChr (p : Port) : Port.ofChr p.toChr = some p := Port.ofChr_number (by cases p <;> rfl)

/-- The branch in service, as the statement writes it. -/
theorem activate_eq (s : State) (p : Port) : s.activate p = s.setPort p { s.port p with
    admin := .active, lastFault := none, receiver := .settling, limitReached := false,
    scheduler := { s.scheduler p with phase := .empty, attempts := 0, abandons := 0 } } := rfl

/-- Settles O40, by the administrative state and the level of the line. -/
theorem enableAndRecoverReplies : Obligations.EnableAndRecoverReplies := by
  refine ⟨fun seq v s w ready above => ⟨⟨_, exec_portControl rfl ready, ?_⟩, ⟨_, exec_portControl rfl ready, ?_⟩⟩,
    fun seq p s w ready => ⟨⟨_, exec_portControl rfl ready, fun branch down => ?_, fun branch up => ?_, fun other => ?_⟩,
      ⟨_, exec_portControl rfl ready, fun branch faulted mark => ?_, fun other => ?_⟩⟩⟩
  · exact .of_result (doPortControl_range (.inl above)) w (Nat.zero_le _)
  · exact .of_result (doPortControl_range (.inl above)) w (Nat.zero_le _)
  · rw [← activate_eq]
    exact .of_result (doPortControl_eq (Port.ofChr_toChr p) (doEnable_disabled branch down)) w (Nat.zero_le _)
  · exact .of_result (doPortControl_eq (Port.ofChr_toChr p) (doEnable_active branch up)) w (Nat.zero_le _)
  · exact .of_result (doPortControl_eq (Port.ofChr_toChr p) (doEnable_state other)) w (Nat.zero_le _)
  · rw [← activate_eq]
    exact .of_result (doPortControl_eq (Port.ofChr_toChr p) (doRecover_mark branch faulted mark)) w (Nat.zero_le _)
  · exact .of_result (doPortControl_eq (Port.ofChr_toChr p) (doRecover_state other)) w (Nat.zero_le _)

/-! ### TABLE_COMMIT (R9) and TABLE_DISCARD (R17) -/

theorem exec_tableCommit {s : State} {seq : Chr} (h : Ready s ⟨seq, 0x0B⟩) :
    exec (.tableCommit seq) s = .next (s.execute .tableCommit ⟨seq, 0x0B⟩ []) := exec_ready rfl h rfl rfl

section
variable {s : State} {id : RequestId}

theorem execute_tableCommit_refused {why : Result} (h : s.routes.editRefusal = some why) :
    s.execute .tableCommit id []
      = (s.withAgent { s.agent with executing := some id }).buildReply id (Answer.refuse why) := by
  unfold State.execute
  dsimp only
  rw [h]

theorem execute_tableCommit_open (h : s.routes.editRefusal = none) :
    s.execute .tableCommit id [] =
      let started := (s.withAgent { s.agent with executing := some id }).withRoutes
        { s.routes with shadow := .validating, validatePos := 0 }
      if s.routes.shadowBank.isEmpty then started.commitSwap else started := by
  unfold State.execute
  dsimp only
  rw [h]

end

theorem exec_tableDiscard {s : State} {seq : Chr} (h : Ready s ⟨seq, 0x0C⟩) :
    exec (.tableDiscard seq) s = .next (
      if s.routes.busy then
        (s.withAgent { s.agent with executing := some ⟨seq, 0x0C⟩ }).buildReply ⟨seq, 0x0C⟩ (Answer.refuse .busy)
      else ((s.withAgent { s.agent with executing := some ⟨seq, 0x0C⟩ }).withRoutes s.routes.startReseed).endReseed) :=
  (exec_ready (k := .tableDiscard) rfl h rfl rfl).trans rfl

theorem RouteUnit.startReseed_spec (r : RouteUnit) : r.startReseed.activeBank = r.activeBank ∧ r.startReseed.shadowBank = []
    ∧ r.startReseed.reseedPos = 0 :=
  ⟨RouteUnit.setShadow_activeBank _ _, RouteUnit.setShadow_shadowBank _ _, rfl⟩

/-- The swap of a commit whose shadow bank has no entry: the reply, and the reseed of an empty bank, which ends at once
(R12, R15). -/
theorem commitSwap_empty {s : State} {id : RequestId} (executing : s.agent.executing = some id) (named : id.code = 0x0B)
    (empty : s.routes.shadowBank = []) :
    let t := (s.withRoutes s.routes.swap).buildReply id (Answer.okWith [0])
    s.commitSwap = t.withRoutes { s.routes.swap with shadow := .clean } := by
  obtain ⟨bank, -, -, -, pos, -⟩ := s.routes.swap_spec
  rw [empty] at bank
  intro t
  have swapped : s.commitSwap = t.endReseed := by
    change ((s.withRoutes s.routes.swap).answerExecuting 0x0B (Answer.okWith [natChr s.routes.swap.activeBank.length])).endReseed
      = _
    rw [answerExecuting_some (s := s.withRoutes s.routes.swap) executing named, bank]
    rfl
  have ripple := buildReply_ripple (s.withRoutes s.routes.swap) id (Answer.okWith [0])
  have routes : t.routes = s.routes.swap := ripple.routes
  have idle : t.agent.executing = none := by
    change ((s.withRoutes s.routes.swap).buildReply id (Answer.okWith [0])).agent.executing = none
    rw [ripple.agent]
  rw [swapped, endReseed_done (by rw [routes, bank, pos]; exact Nat.le_refl 0), routes,
    answerExecuting_none (s := t.withRoutes { s.routes.swap with shadow := .clean }) idle]

/-- Settles O46, by the shadow state and whether the bank to validate or to copy has an entry. -/
theorem commitAndDiscardStart : Obligations.CommitAndDiscardStart := by
  refine ⟨fun seq s w ready => ⟨_, exec_tableCommit ready, fun busy => ?_, fun stale => ?_, fun editable some => ?_,
      fun editable empty => ?_⟩,
    fun seq s w ready => ⟨_, exec_tableDiscard ready, fun busy => ?_, fun validating reseeding some => ?_,
      fun validating reseeding empty => ?_⟩⟩
  · rw [execute_tableCommit_refused (RouteUnit.editRefusal_busy busy)]
    exact buildReply_refused w
  · rw [execute_tableCommit_refused (RouteUnit.editRefusal_stale stale)]
    exact buildReply_refused w
  · rw [execute_tableCommit_open (RouteUnit.editRefusal_open editable)]
    exact if_neg (by rw [List.isEmpty_iff]; exact some)
  · rw [execute_tableCommit_open (RouteUnit.editRefusal_open editable)]
    dsimp only
    rw [if_pos (List.isEmpty_iff.mpr empty)]
    generalize hr : ({ s.routes with shadow := .validating, validatePos := 0 } : RouteUnit) = r
    have same : r.shadowBank = s.routes.shadowBank ∧ r.active = s.routes.active := by
      rw [← hr]
      exact ⟨rfl, rfl⟩
    obtain ⟨bank, active⟩ := same
    have swapped := commitSwap_empty
      (s := (s.withAgent { s.agent with executing := .some ⟨seq, 0x0B⟩ }).withRoutes r) (id := ⟨seq, 0x0B⟩) rfl rfl
      (bank.trans empty)
    have replied := buildReply_executing (u := s.withRoutes r.swap) (id := ⟨seq, 0x0B⟩) (a := Answer.okWith [0])
      (x := .some ⟨seq, 0x0B⟩) w (show 1 ≤ 249 by decide)
    obtain ⟨swapBank, swapShadow, swapActive, -⟩ := r.swap_spec
    rw [swapped]
    refine ⟨?_, swapBank.trans (bank.trans empty), swapShadow, rfl, ?_, ?_, replied.queue⟩
    · change r.swap.active ≠ _
      rw [swapActive, active]
      exact BankId.other_ne _
    · exact congrArg Agent.executing replied.agent
    · exact congrArg Agent.replay replied.agent
  · rw [if_pos ((RouteUnit.busy_iff _).mpr busy)]
    exact buildReply_refused w
  · obtain ⟨bank, -, pos⟩ := s.routes.startReseed_spec
    have idle : ¬ s.routes.busy = true := fun k => ((RouteUnit.busy_iff _).mp k).elim validating reseeding
    rw [if_neg idle, endReseed_open]
    · rfl
    · change s.routes.startReseed.reseedPos < s.routes.startReseed.activeBank.length
      rw [pos, bank]
      exact List.length_pos_of_ne_nil some
  · obtain ⟨bank, shadow, pos⟩ := s.routes.startReseed_spec
    have idle : ¬ s.routes.busy = true := fun k => ((RouteUnit.busy_iff _).mp k).elim validating reseeding
    have ended := endReseed_done
      (s := (s.withAgent { s.agent with executing := .some ⟨seq, 0x0C⟩ }).withRoutes s.routes.startReseed) (by
        change s.routes.startReseed.activeBank.length ≤ _
        rw [bank, empty]
        exact Nat.zero_le _)
    change _ = (((s.withRoutes { s.routes.startReseed with shadow := .clean }).withAgent
      { s.agent with executing := .some ⟨seq, 0x0C⟩ }).answerExecuting 0x0C
        (Answer.okWith [natChr s.routes.startReseed.shadowBank.length])) at ended
    rw [if_neg idle, ended, answerExecuting_some (id := ⟨seq, 0x0C⟩) rfl rfl, shadow]
    exact buildReply_executing (u := s.withRoutes { s.routes.startReseed with shadow := .clean }) w (show 1 ≤ 249 by decide)

/-! ### Dispatch (R179) -/

theorem Command.ofCode_none {code : Chr} (h : code.toNat = 0 ∨ 0x12 < code.toNat) : Command.ofCode code = none := by
  refine List.find?_eq_none.mpr fun k _ named => ?_
  obtain rfl := of_decide_eq_true named
  revert h
  cases k <;> decide

/-- The codes of Table 10-6 with a number of parameters that is not their command's. -/
theorem Command.miscounted {code : Chr} {params : List Chr}
    (h : (code = 0x01 ∨ code = 0x0B ∨ code = 0x0C ∨ code = 0x0E ∨ code = 0x11) ∧ params ≠ []
      ∨ (code = 0x02 ∨ code = 0x03 ∨ code = 0x06 ∨ code = 0x0F ∨ code = 0x12) ∧ params.length ≠ 1
      ∨ (code = 0x05 ∨ code = 0x08 ∨ code = 0x0D) ∧ params.length ≠ 2
      ∨ (code = 0x09 ∨ code = 0x0A) ∧ params.length ≠ 3
      ∨ code = 0x07 ∧ params.length ≠ 11 ∨ code = 0x10 ∧ params.length ≠ 18
      ∨ code = 0x04 ∧ (params.length < 14 ∨ params.length ≠ 14 + 2 * (params.getD 13 0).toNat)) :
    ∃ k, Command.ofCode code = some k ∧ k.countOk params = false := by
  obtain ⟨k, n⟩ | ⟨k, n⟩ | ⟨k, n⟩ | ⟨k, n⟩ | ⟨rfl, n⟩ | ⟨rfl, n⟩ | ⟨rfl, n⟩ := h
  · have none : decide (params.length = 0) = false := decide_eq_false (by rw [List.length_eq_zero_iff]; exact n)
    rcases k with rfl | rfl | rfl | rfl | rfl <;> exact ⟨_, rfl, none⟩
  · have none : decide (params.length = 1) = false := decide_eq_false n
    rcases k with rfl | rfl | rfl | rfl | rfl <;> exact ⟨_, rfl, none⟩
  · have none : decide (params.length = 2) = false := decide_eq_false n
    rcases k with rfl | rfl | rfl <;> exact ⟨_, rfl, none⟩
  · have none : decide (params.length = 3) = false := decide_eq_false n
    rcases k with rfl | rfl <;> exact ⟨_, rfl, none⟩
  · exact ⟨.routeWrite, rfl, decide_eq_false n⟩
  · exact ⟨.settingsWrite, rfl, decide_eq_false n⟩
  · refine ⟨.portFormat, rfl, ?_⟩
    unfold Command.countOk
    dsimp only
    cases k : params[13]? with
    | none => rfl
    | some c =>
      have long : 13 < params.length := (List.getElem?_eq_some_iff.mp k).1
      rw [List.getD_eq_getElem?_getD, k] at n
      exact decide_eq_false (n.resolve_left (by omega))

theorem dispatch_unknown {s : State} {id : RequestId} {params : List Chr} (h : Command.ofCode id.code = none) :
    s.dispatch id params = s.buildReply id (Answer.refuse .unknown) := by
  unfold State.dispatch
  rw [h]

theorem dispatch_length {s : State} {id : RequestId} {params : List Chr} {k : Command} (h : Command.ofCode id.code = some k)
    (n : k.countOk params = false) : s.dispatch id params = s.buildReply id (Answer.refuse .length) := by
  unfold State.dispatch
  rw [h]
  exact if_neg (by rw [n]; exact Bool.false_ne_true)

/-- A well-formed request, with a good CRC, is taken as its code, sequence number and parameters say (R173 to R176). -/
theorem takeHanded_formed {s : State} {d : DescNo} {rest : List DescNo} {a seq code : Chr} {params : List Chr}
    (handed : s.agent.requests = d :: rest) (short : params.length ≤ 59)
    (telegram : s.pool.telegram d = [a, code, seq] ++ params ++ twoChars (crc16 ([a, code, seq] ++ params))) :
    s.takeHanded = ((s.withAgent { s.agent with requests := rest }).withPool (s.pool.giveUp d)).takeRequest ⟨seq, code⟩
      params := by
  generalize hb : [a, code, seq] ++ params = body at telegram
  have length : body.length = params.length + 3 := by rw [← hb]; simp
  generalize hc : twoChars (crc16 body) = crc at telegram
  have two : crc.length = 2 := by rw [← hc]; rfl
  have total : (body ++ crc).length - 2 = body.length := by rw [List.length_append, two]; omega
  have good : rejection (body ++ crc) = none := by
    unfold rejection
    rw [total, List.take_left, List.drop_left, if_neg (by rw [List.length_append]; omega),
      if_neg (by rw [List.length_append]; omega), if_pos hc]
  have inside : ((body ++ crc).drop 3).take ((body ++ crc).length - 5) = params := by
    have count : (body ++ crc).length - 5 = params.length := by rw [List.length_append, length, two]; omega
    rw [count, ← hb]
    exact List.take_left
  unfold State.takeHanded
  rw [handed]
  dsimp only
  rw [telegram, good]
  dsimp only
  rw [inside]
  have fields : param (body ++ crc) 2 = seq ∧ param (body ++ crc) 1 = code := by
    rw [← hb]
    exact ⟨rfl, rfl⟩
  rw [fields.1, fields.2]

/-! ### What a request leaves of the requests that wait -/

theorem buildReply_requests (s : State) (id : RequestId) (a : Answer) : (s.buildReply id a).agent.requests = s.agent.requests := by
  rw [(buildReply_ripple s id a).agent]

theorem answerExecuting_requests (s : State) (code : Chr) (a : Answer) :
    (s.answerExecuting code a).agent.requests = s.agent.requests := by
  unfold State.answerExecuting
  split
  · split
    · exact buildReply_requests s _ a
    · rfl
  · rfl

theorem endReseed_requests (s : State) : s.endReseed.agent.requests = s.agent.requests := by
  unfold State.endReseed
  split
  · exact answerExecuting_requests _ _ _
  · rfl

theorem commitSwap_requests (s : State) : s.commitSwap.agent.requests = s.agent.requests :=
  (endReseed_requests _).trans (answerExecuting_requests _ _ _)

theorem doPurge_agent (s : State) (p : Port) : (s.doPurge p).1.agent = s.agent := by
  unfold State.doPurge
  extract_lets c gone emptied removed posted
  have removedAgent : removed.agent = s.agent := by
    unfold removed
    split
    · exact (requestLost_ripple _ p _).agent
    · rfl
  change posted.agent = s.agent
  unfold posted
  split <;> exact removedAgent

theorem doPortControl_agent (s : State) (v a : Chr) : (s.doPortControl v a).1.agent = s.agent := by
  unfold State.doPortControl
  split
  · unfold State.doEnable
    split
    · split <;> rfl
    · rfl
  · unfold State.doDisable
    split
    · split
      · rfl
      · exact portLoss_agent s _ _
      · rfl
    · rfl
  · unfold State.doRecover
    split <;> rfl
  · exact doPurge_agent s _
  · rfl

/-- The command's operation leaves the requests that wait. -/
abbrev RequestsKept (s : State) (r : State × Answer) : Prop := r.1.agent.requests = s.agent.requests

theorem doForwarding_requests (s : State) (v : Chr) : RequestsKept s (s.doForwarding v) := by
  unfold State.doForwarding
  split <;> rfl

theorem doPortFormat_requests (s : State) (params : List Chr) : RequestsKept s (s.doPortFormat params) := by
  unfold State.doPortFormat
  split
  · split <;> rfl
  · split <;> rfl
  · rfl

theorem doCountersClear_requests (s : State) (v : Chr) : RequestsKept s (s.doCountersClear v) := by
  unfold State.doCountersClear
  split
  · rfl
  · split <;> rfl

theorem doRouteWrite_requests (s : State) (params : List Chr) : RequestsKept s (s.doRouteWrite params) := by
  unfold State.doRouteWrite
  split
  · rfl
  · split
    · rfl
    · dsimp only
      split
      · rfl
      · split <;> rfl

theorem doRouteDelete_requests (s : State) (v a : Chr) : RequestsKept s (s.doRouteDelete v a) := by
  unfold State.doRouteDelete
  split
  · rfl
  · rfl
  · dsimp only
    split <;> rfl

theorem doRouteRearm_requests (s : State) (v a : Chr) : RequestsKept s (s.doRouteRearm v a) := by
  unfold State.doRouteRearm
  split
  · rfl
  · split
    · rfl
    · split
      · rfl
      · split <;> rfl

theorem doNoticeRead_requests (s : State) (n : Chr) : RequestsKept s (s.doNoticeRead n) := by
  unfold State.doNoticeRead
  split <;> rfl

theorem doSettingsWrite_requests (s : State) (params : List Chr) : RequestsKept s (s.doSettingsWrite params) := by
  unfold State.doSettingsWrite
  split <;> rfl

/-- The commands that read answer the state as it is. -/
theorem doPortRead_fst (s : State) (v : Chr) : (s.doPortRead v).1 = s := by
  unfold State.doPortRead
  split <;> rfl

theorem doRouteRead_fst (s : State) (b v a : Chr) : (s.doRouteRead b v a).1 = s := by
  unfold State.doRouteRead
  split
  · rfl
  · rfl
  · split <;> rfl

theorem doRouteList_fst (s : State) (b v a : Chr) : (s.doRouteList b v a).1 = s := by
  unfold State.doRouteList
  split <;> rfl

/-- No command changes the requests that wait. -/
theorem execute_requests (s : State) (k : Command) (id : RequestId) (params : List Chr) :
    (s.execute k id params).agent.requests = s.agent.requests := by
  unfold State.execute
  extract_lets agent u answered
  have same : u.agent.requests = s.agent.requests := rfl
  rw [← same]
  clear_value u
  have run : ∀ {r : State × Answer}, RequestsKept u r → (answered r).agent.requests = u.agent.requests := fun kept =>
    (buildReply_requests _ _ _).trans kept
  have reply : ∀ a : Answer, (u.buildReply id a).agent.requests = u.agent.requests := buildReply_requests u id
  cases k with
  | status => exact reply _
  | forwarding => exact run (doForwarding_requests u _)
  | portRead => exact run (congrArg (fun t : State => t.agent.requests) (doPortRead_fst u _))
  | portFormat => exact run (doPortFormat_requests u _)
  | portControl => exact run (congrArg Agent.requests (doPortControl_agent u _ _))
  | countersClear => exact run (doCountersClear_requests u _)
  | routeWrite => exact run (doRouteWrite_requests u _)
  | routeDelete => exact run (doRouteDelete_requests u _ _)
  | routeRead => exact run (congrArg (fun t : State => t.agent.requests) (doRouteRead_fst u _ _ _))
  | routeList => exact run (congrArg (fun t : State => t.agent.requests) (doRouteList_fst u _ _ _))
  | tableCommit =>
    dsimp only
    split
    · exact reply _
    · split
      · exact commitSwap_requests _
      · rfl
  | tableDiscard =>
    dsimp only
    split
    · exact reply _
    · exact endReseed_requests _
  | routeRearm => exact run (doRouteRearm_requests u _ _)
  | exchangeList => exact reply _
  | noticeRead => exact run (doNoticeRead_requests u _)
  | settingsWrite => exact run (doSettingsWrite_requests u _)
  | settingsRead => exact reply _
  | restart =>
    dsimp only
    split <;> exact reply _

theorem takeRequest_requests (s : State) (id : RequestId) (params : List Chr) :
    (s.takeRequest id params).agent.requests = s.agent.requests := by
  unfold State.takeRequest
  split
  · rfl
  · split
    · exact congrArg Agent.requests (queueReply_ripple s).agent
    · unfold State.dispatch
      split
      · exact buildReply_requests s id _
      · split
        · exact execute_requests s _ id params
        · exact buildReply_requests s id _

/-- Giving up a general descriptor leaves the agent free for the request. -/
theorem Ready.handed {s : State} {id : RequestId} (ready : Ready s id) {d : DescNo} (general : d ≠ 0) (rest : List DescNo) :
    Ready ((s.withAgent { s.agent with requests := rest }).withPool (s.pool.giveUp d)) id := by
  obtain ⟨idle, fresh⟩ := ready
  refine ⟨?_, fresh⟩
  rw [← idle]
  unfold State.agentBusy
  change (decide (((s.pool.giveUp d).descriptor 0).refs ≠ 0) || _) = _
  rw [Pool.giveUp_other s.pool general.symm]

/-- Settles O33: what a well-formed request is, and the three refusals that come before its command's own. -/
theorem requestIsDispatched : Obligations.RequestIsDispatched := by
  refine ⟨fun s d rest a seq code params c handed short request telegram => ?_,
    fun s d rest a seq code params w handed general short ready telegram => ?_⟩
  · have taken := takeHanded_formed handed short telegram
    refine ⟨s.takeHanded, rfl, ?_, ?_⟩
    · rw [taken, takeRequest_requests]
    · rw [taken]
      exact exec_request c _ params _ request
  · have ready' := ready.handed general rest
    have wf : CellsCanonical ((s.withAgent { s.agent with requests := rest }).withPool (s.pool.giveUp d)) := by
      unfold CellsCanonical
      change cellsWf (s.pool.giveUp d).cells = true
      rw [Pool.giveUp_cells]
      exact w
    have run : exec .mgmtRequest s = .next
        (((s.withAgent { s.agent with requests := rest }).withPool (s.pool.giveUp d)).dispatch ⟨seq, code⟩ params) := by
      rw [← takeRequest_ready _ _ _ ready', ← takeHanded_formed handed short telegram]
      rfl
    rw [run]
    refine ⟨fun unknown => ⟨_, rfl, ?_⟩, fun counted => ⟨_, rfl, ?_⟩, ?_⟩
    · rw [dispatch_unknown (Command.ofCode_none unknown)]
      exact buildReply_replied _ _ _ wf (Nat.zero_le _)
    · obtain ⟨k, named, miscounted⟩ := Command.miscounted counted
      rw [dispatch_length named miscounted]
      exact buildReply_replied _ _ _ wf (Nat.zero_le _)
    · rintro port action rfl rfl outside
      exact ⟨_, rfl, .of_result (x := some ⟨seq, 0x05⟩) (doPortControl_range outside) wf (Nat.zero_le _)⟩

end Sys2Proof.Machine
end

section
/-! PROOFS. The records of chapter 10: what reads back of the characters written, what a record with a field out of range
is refused for, and the commands that carry one: ROUTE_WRITE, PORT_FORMAT and SETTINGS_WRITE. -/

namespace Sys2Proof.Machine

/-! ### Numbers in characters (R192) -/

theorem wordOf_toNat (hi lo : Chr) : (wordOf hi lo).toNat = hi.toNat * 256 + lo.toNat := by
  unfold wordOf
  rw [BitVec.toNat_append, Nat.shiftLeft_eq, ← Nat.shiftLeft_eq, Nat.shiftLeft_add_eq_or_of_lt lo.isLt, Nat.shiftLeft_eq]

theorem ofNat16_toNat {n : Nat} (h : n < 65536) : (BitVec.ofNat 16 n).toNat = n :=
  (BitVec.toNat_ofNat n 16).trans (Nat.mod_eq_of_lt h)

theorem natTwo_flatMap (ns : List Nat) :
    ns.flatMap natTwo = ns.flatMap fun n => [BitVec.ofNat 8 (n / 256), BitVec.ofNat 8 (n % 256)] :=
  congrArg (fun g => ns.flatMap g) (funext natTwo_eq)

/-! ### The format record (Table 10-10) -/

theorem parsePattern_natTwo {ns : List Nat} (h : ∀ n ∈ ns, n < 65536) : parsePattern (ns.flatMap natTwo) = ns := by
  induction ns with
  | nil => rfl
  | cons n rest ih =>
    change (wordOf (hiChr (BitVec.ofNat 16 n)) (loChr (BitVec.ofNat 16 n))).toNat :: parsePattern (rest.flatMap natTwo) = _
    rw [wordOf_natTwo_toNat (h n List.mem_cons_self), ih fun k hk => h k (List.mem_cons_of_mem n hk)]

theorem inRange_iff {lo hi n : Nat} : inRange lo hi n = true ↔ lo ≤ n ∧ n ≤ hi := by
  unfold inRange
  rw [Bool.and_eq_true, decide_eq_true_eq, decide_eq_true_eq]

/-- The ranges of Table 8-1. -/
theorem FormatRecord.inRanges_iff (f : FormatRecord) : f.inRanges = true ↔
    (1 ≤ f.pattern.length ∧ f.pattern.length ≤ 12) ∧ (∀ n ∈ f.pattern, 8 ≤ n ∧ n ≤ 4095)
      ∧ (2 ≤ f.endGap ∧ f.endGap ≤ 40) ∧ (f.endGap ≤ f.guardGap ∧ f.guardGap ≤ 64) ∧ (1 ≤ f.overlap ∧ f.overlap ≤ 4)
      ∧ f.retryLimit ≤ 7 ∧ (1 ≤ f.abandonLimit ∧ f.abandonLimit ≤ 15) ∧ (10 ≤ f.stuckLimit ∧ f.stuckLimit ≤ 1000) := by
  unfold FormatRecord.inRanges
  simp only [Bool.and_eq_true, inRange_iff, List.all_eq_true, decide_eq_true_eq, and_assoc]

section
variable (f : FormatRecord)

theorem parseWidth_chars : parseWidth (param f.chars 0) = some f.width := by
  change parseWidth (match f.width with | .seven => 0x07 | .eight => 0x08) = _
  cases f.width <;> rfl

theorem parseParity_chars : parseParity (param f.chars 1) = some f.parity := by
  change parseParity (match f.parity with | .noParity => 0x00 | .even => 0x01 | .odd => 0x02) = _
  cases f.parity <;> rfl

theorem parseStop_chars : parseStop (param f.chars 2) = some f.stopBits := by
  change parseStop (match f.stopBits with | .one => 0x01 | .two => 0x02) = _
  cases f.stopBits <;> rfl

theorem parseFraming_chars : parseFraming (param f.chars 3) = some f.framing := by
  change parseFraming (match f.framing with | .idleLine => 0x00 | .addressBit => 0x01) = _
  cases f.framing <;> rfl

theorem parseMiss_chars : parseMiss (param f.chars 11) = some f.miss := by
  change parseMiss (match f.miss with | .drop => 0x00 | .dropNote => 0x01 | .passToTrunk => 0x02) = _
  cases f.miss <;> rfl

variable {f}

/-- A format record of a reply reads back as the format. -/
theorem parseFormat_chars (h : f.inRanges = true) : parseFormat f.chars = some f := by
  obtain ⟨⟨_, few⟩, entries, ⟨_, endGap⟩, ⟨_, guard⟩, ⟨_, overlap⟩, retry, ⟨_, abandon⟩, ⟨_, stuck⟩⟩ :=
    f.inRanges_iff.mp h
  have pattern : parsePattern (f.chars.drop 13) = f.pattern :=
    parsePattern_natTwo fun n hn => by have := entries n hn; omega
  have endField : (param f.chars 4).toNat = f.endGap := natChr_toNat (by omega)
  have guardField : (param f.chars 5).toNat = f.guardGap := natChr_toNat (by omega)
  have overlapField : (param f.chars 6).toNat = f.overlap := natChr_toNat (by omega)
  have retryField : (param f.chars 7).toNat = f.retryLimit := natChr_toNat (by omega)
  have abandonField : (param f.chars 8).toNat = f.abandonLimit := natChr_toNat (by omega)
  have stuckField : (wordOf (param f.chars 9) (param f.chars 10)).toNat = f.stuckLimit := wordOf_natTwo_toNat (by omega)
  have countField : (param f.chars 12).toNat = f.pattern.length := natChr_toNat (by omega)
  unfold parseFormat
  rw [parseWidth_chars, parseParity_chars, parseStop_chars, parseFraming_chars, parseMiss_chars]
  dsimp only
  rw [pattern, endField, guardField, overlapField, retryField, abandonField, stuckField, countField]
  exact if_pos (by rw [h, decide_eq_true rfl]; rfl)

end

/-! ### The route entry record (Table 10-9) -/

theorem destinationsOf_mask (d : PerPort Bool) : destinationsOf (destinationsMask d) = d
    ∧ (destinationsMask d).toNat < 32 := by
  obtain ⟨a, b, c, d, e⟩ := d
  revert a b c d e
  decide

/-- The flags character, bit by bit, of an entry as it is written. -/
theorem flags_bits (a b c d e : Bool) :
    let x := natChr (a.toNat + 2 * b.toNat + 4 * c.toNat + 8 * d.toNat + 16 * e.toNat + 32 * false.toNat)
    x.toNat < 32 ∧ x.getLsbD 0 = a ∧ x.getLsbD 1 = b ∧ x.getLsbD 2 = c ∧ x.getLsbD 3 = d ∧ x.getLsbD 4 = e := by
  revert a b c d e
  decide

/-- The stand-in and reload flags of an entry (Table 10-9). -/
def RouteEntry.standInFlag (e : RouteEntry) : Bool :=
  match e.reply with
  | some r => r.standIn
  | none => false

def RouteEntry.reloadFlag (e : RouteEntry) : Bool :=
  match e.allowance with
  | some al => decide (al.mode = .reload)
  | none => false

def RouteEntry.windowField (e : RouteEntry) : Nat :=
  match e.reply with
  | some r => r.window
  | none => 0

def RouteEntry.countField (e : RouteEntry) : Nat :=
  match e.allowance with
  | some al => al.count
  | none => 0

def RouteEntry.reloadField (e : RouteEntry) : Nat :=
  match e.allowance with
  | some al => al.reload
  | none => 0

theorem parseReply_some {r : ReplySpec} {w : Word16} (h : w.toNat = r.window) (low : 1 ≤ r.window) (high : r.window ≤ 4000) :
    parseReply true r.standIn w = some (some r) := by
  unfold parseReply
  rw [if_pos rfl, h, if_pos ⟨low, high⟩]

theorem parseAllowance_some {al : Allowance} {n k : Word16} (count : n.toNat = al.count) (reload : k.toNat = al.reload)
    (low : 1 ≤ al.count) (reloadLow : 1 ≤ al.reload) :
    parseAllowance true (decide (al.mode = .reload)) n k = some (some al) := by
  unfold parseAllowance
  rw [if_pos rfl, count, reload, if_pos ⟨low, reloadLow⟩]
  obtain ⟨x, y, mode⟩ := al
  cases mode <;> rfl

section
variable {e : RouteEntry}

/-- The characters of a route entry are its fields in the order of Table 10-9. -/
theorem RouteEntry.chars_eq (e : RouteEntry) : e.chars =
    [e.arrival.toChr, e.address, destinationsMask e.destinations,
      natChr (e.egress.isSome.toNat + 2 * e.reply.isSome.toNat + 4 * e.standInFlag.toNat + 8 * e.allowance.isSome.toNat
        + 16 * e.reloadFlag.toNat + 32 * (e.retired && e.allowance.isSome).toNat),
      e.egress.getD 0] ++ natTwo e.windowField ++ natTwo e.countField ++ natTwo e.reloadField := rfl

theorem parseReply_chars (windows : ∀ r, e.reply = some r → 1 ≤ r.window ∧ r.window ≤ 4000) :
    parseReply e.reply.isSome e.standInFlag (BitVec.ofNat 16 e.windowField) = some e.reply := by
  unfold RouteEntry.standInFlag RouteEntry.windowField
  cases reply : e.reply with
  | none => rfl
  | some r =>
    obtain ⟨low, high⟩ := windows r reply
    have bound : r.window < 65536 := by omega
    exact parseReply_some (ofNat16_toNat bound) low high

theorem parseAllowance_chars
    (counts : ∀ al, e.allowance = some al → 1 ≤ al.count ∧ al.count ≤ 65535 ∧ 1 ≤ al.reload ∧ al.reload ≤ 65535) :
    parseAllowance e.allowance.isSome e.reloadFlag (BitVec.ofNat 16 e.countField) (BitVec.ofNat 16 e.reloadField)
      = some e.allowance := by
  unfold RouteEntry.reloadFlag RouteEntry.countField RouteEntry.reloadField
  cases allowance : e.allowance with
  | none => rfl
  | some al =>
    obtain ⟨count, countMax, reload, reloadMax⟩ := counts al allowance
    have countBound : al.count < 65536 := by omega
    have reloadBound : al.reload < 65536 := by omega
    exact parseAllowance_some (ofNat16_toNat countBound) (ofNat16_toNat reloadBound) count reload

/-- A route entry, as a write may carry it, reads back from its characters. -/
theorem parseRoute_chars (windows : ∀ r, e.reply = some r → 1 ≤ r.window ∧ r.window ≤ 4000) (live : e.retired = false)
    (counts : ∀ al, e.allowance = some al → 1 ≤ al.count ∧ al.count ≤ 65535 ∧ 1 ≤ al.reload ∧ al.reload ≤ 65535) :
    parseRoute e.chars = some e := by
  have reply := parseReply_chars windows
  have allowance := parseAllowance_chars counts
  obtain ⟨mask, maskBound⟩ := destinationsOf_mask e.destinations
  obtain ⟨bound, egressBit, replyBit, standInBit, allowanceBit, reloadBit⟩ :=
    flags_bits e.egress.isSome e.reply.isSome e.standInFlag e.allowance.isSome e.reloadFlag
  have flags : param e.chars 3 = natChr (e.egress.isSome.toNat + 2 * e.reply.isSome.toNat + 4 * e.standInFlag.toNat
      + 8 * e.allowance.isSome.toNat + 16 * e.reloadFlag.toNat + 32 * false.toNat) := by
    rw [← Bool.false_and e.allowance.isSome, ← live]
    rfl
  have port : param e.chars 0 = e.arrival.toChr := rfl
  have address : param e.chars 1 = e.address := rfl
  have destinations : param e.chars 2 = destinationsMask e.destinations := rfl
  have window : wordOf (param e.chars 5) (param e.chars 6) = BitVec.ofNat 16 e.windowField := wordOf_hiChr_loChr _
  have count : wordOf (param e.chars 7) (param e.chars 8) = BitVec.ofNat 16 e.countField := wordOf_hiChr_loChr _
  have reload : wordOf (param e.chars 9) (param e.chars 10) = BitVec.ofNat 16 e.reloadField := wordOf_hiChr_loChr _
  have egressField : param e.chars 4 = e.egress.getD 0 := rfl
  have egress : (if e.egress.isSome = true then some (e.egress.getD 0) else none) = e.egress := by
    cases e.egress <;> rfl
  unfold parseRoute
  dsimp only
  rw [flags, replyBit, standInBit, allowanceBit, reloadBit, window, count, reload, reply, allowance, egressBit, egressField,
    egress, port, address, destinations, Port.ofChr_toChr]
  refine (if_pos ⟨maskBound, bound⟩).trans ?_
  rw [mask, ← live]

end

/-- The destinations character is the sum of the destinations' places. -/
theorem destinationsMask_eq (e : RouteEntry) :
    destinationsMask e.destinations = BitVec.ofNat 8 (e.destinationList.map fun p => 2 ^ p.number).sum := by
  unfold RouteEntry.destinationList
  generalize e.destinations = d
  obtain ⟨a, b, c, d, e⟩ := d
  revert a b c d e
  decide

/-- The two flags of a reply, in the number the layout gives them. -/
theorem replyFlags_eq (e : RouteEntry) : 2 * e.reply.isSome.toNat + 4 * e.standInFlag.toNat
    = match e.reply with | none => 0 | some r => if r.standIn then 6 else 2 := by
  unfold RouteEntry.standInFlag
  cases e.reply with
  | none => rfl
  | some r =>
    dsimp only
    cases r.standIn <;> rfl

/-- The three flags of an allowance, in the number the layout gives them. -/
theorem allowanceFlags_eq (e : RouteEntry) :
    8 * e.allowance.isSome.toNat + 16 * e.reloadFlag.toNat + 32 * (e.retired && e.allowance.isSome).toNat
    = match e.allowance with
      | none => 0
      | some al => (match al.mode with | .retire => 8 | .reload => 24) + (if e.retired then 32 else 0) := by
  unfold RouteEntry.reloadFlag
  cases e.allowance with
  | none =>
    rw [Option.isSome_none, Bool.and_false]
    rfl
  | some al =>
    rw [Option.isSome_some, Bool.and_true]
    dsimp only
    cases al.mode <;> cases e.retired <;> rfl

/-- Settles O53: the three records read back, and their characters in the layout of the tables. -/
theorem recordsRoundTrip : Obligations.RecordsRoundTrip := by
  refine ⟨fun f => parseFormat_chars, fun x ranges filler => parseSettings_chars ranges filler,
    fun e windows live counts => parseRoute_chars windows live counts, fun f => ?_, fun e => ?_⟩
  · rw [← natTwo_flatMap, FormatRecord.chars, natTwo_eq]
    rfl
  · have flags : e.egress.isSome.toNat + 2 * e.reply.isSome.toNat + 4 * e.standInFlag.toNat + 8 * e.allowance.isSome.toNat
        + 16 * e.reloadFlag.toNat + 32 * (e.retired && e.allowance.isSome).toNat
      = e.egress.isSome.toNat + (2 * e.reply.isSome.toNat + 4 * e.standInFlag.toNat)
        + (8 * e.allowance.isSome.toNat + 16 * e.reloadFlag.toNat + 32 * (e.retired && e.allowance.isSome).toNat) := by
      omega
    rw [← natTwo_flatMap, ← destinationsMask_eq, RouteEntry.chars_eq, flags, replyFlags_eq, allowanceFlags_eq]
    cases e.egress <;> rfl

end Sys2Proof.Machine
end

section
/-! PROOFS. The commands that carry or read a record: PORT_FORMAT (R150, Table 8-2), SETTINGS_WRITE (R184), ROUTE_WRITE
(R3, R6), ROUTE_READ and ROUTE_LIST (R8). -/

namespace Sys2Proof.Machine

/-! ### A format record with a field out of range -/

section
variable {c : Chr}

theorem parseWidth_some {w : DataWidth} (h : parseWidth c = some w) : c.toNat = 7 ∨ c.toNat = 8 := by
  unfold parseWidth at h
  split at h
  · next k => exact .inl k
  · next k => exact .inr k
  · cases h

theorem parseParity_some {w : Parity} (h : parseParity c = some w) : c.toNat ≤ 2 := by
  unfold parseParity at h
  split at h
  · next k => omega
  · next k => omega
  · next k => omega
  · cases h

theorem parseStop_some {w : StopBits} (h : parseStop c = some w) : c.toNat = 1 ∨ c.toNat = 2 := by
  unfold parseStop at h
  split at h
  · next k => exact .inl k
  · next k => exact .inr k
  · cases h

theorem parseFraming_some {w : Framing} (h : parseFraming c = some w) : c.toNat ≤ 1 := by
  unfold parseFraming at h
  split at h
  · next k => omega
  · next k => omega
  · cases h

theorem parseMiss_some {w : MissPolicy} (h : parseMiss c = some w) : c.toNat ≤ 2 := by
  unfold parseMiss at h
  split at h
  · next k => omega
  · next k => omega
  · next k => omega
  · cases h

end

/-- The codes of a format record that is taken, and where its numbers stand. -/
structure FormatTaken (rec : List Chr) (f : FormatRecord) : Prop where
  width : (param rec 0).toNat = 7 ∨ (param rec 0).toNat = 8
  parity : (param rec 1).toNat ≤ 2
  stop : (param rec 2).toNat = 1 ∨ (param rec 2).toNat = 2
  framing : (param rec 3).toNat ≤ 1
  miss : (param rec 11).toNat ≤ 2
  endGap : f.endGap = (param rec 4).toNat
  guardGap : f.guardGap = (param rec 5).toNat
  overlap : f.overlap = (param rec 6).toNat
  retryLimit : f.retryLimit = (param rec 7).toNat
  abandonLimit : f.abandonLimit = (param rec 8).toNat
  stuckLimit : f.stuckLimit = (param rec 9).toNat * 256 + (param rec 10).toNat
  pattern : f.pattern = parsePattern (rec.drop 13)
  count : f.pattern.length = (param rec 12).toNat

theorem parseFormat_some {rec : List Chr} {f : FormatRecord} (h : parseFormat rec = some f) : FormatTaken rec f := by
  unfold parseFormat at h
  split at h
  · next width parity stop framing miss =>
    dsimp only at h
    split at h
    · next ok =>
      cases h
      rw [Bool.and_eq_true, decide_eq_true_eq] at ok
      exact ⟨parseWidth_some width, parseParity_some parity, parseStop_some stop, parseFraming_some framing,
        parseMiss_some miss, rfl, rfl, rfl, rfl, rfl, wordOf_toNat _ _, rfl, ok.2⟩
    · cases h
  · cases h

/-- Pattern entry `k` is the two-character number in its place. -/
theorem parsePattern_mem {k : Nat} : ∀ {cs : List Chr}, 2 * k + 1 < cs.length →
    (cs.getD (2 * k) 0).toNat * 256 + (cs.getD (2 * k + 1) 0).toNat ∈ parsePattern cs := by
  induction k with
  | zero =>
    intro cs h
    match cs with
    | hi :: lo :: rest =>
      rw [parsePattern, wordOf_toNat]
      exact List.mem_cons_self
    | [_] => exact absurd h (by simp)
    | [] => exact absurd h (by simp)
  | succ k ih =>
    intro cs h
    match cs with
    | hi :: lo :: rest =>
      have inner := ih (cs := rest) (by simp only [List.length_cons] at h; omega)
      exact List.mem_cons_of_mem _ inner
    | [_] => exact absurd h (by simp)
    | [] => exact absurd h (by simp)

/-! ### PORT_FORMAT -/

section
variable {s : State} {params : List Chr}

theorem doPortFormat_range (h : Port.ofChr (param params 0) = none ∨ parseFormat (params.drop 1) = none) :
    s.doPortFormat params = (s, Answer.refuse .range) := by
  unfold State.doPortFormat
  obtain h | h := h
  · rw [h]
  · rw [h]
    cases Port.ofChr (param params 0) with
    | none => rfl
    | some p => cases p <;> rfl

variable {p : Port} {f : FormatRecord}

theorem doPortFormat_trunk (named : Port.ofChr (param params 0) = some .trunk) (parsed : parseFormat (params.drop 1) = some f) :
    s.doPortFormat params = if f.trunkOk then (s.withTrunk { s.trunk with pendingFormat := some f }, Answer.okWith [])
      else (s, Answer.refuse .range) := by
  unfold State.doPortFormat
  rw [named, parsed]

theorem doPortFormat_branch (branch : p ≠ .trunk) (named : Port.ofChr (param params 0) = some p)
    (parsed : parseFormat (params.drop 1) = some f) :
    s.doPortFormat params = if (s.port p).admin = .disabled then
        (s.setPort p { s.port p with format := f }, Answer.okWith [])
      else (s, Answer.refuse .state) := by
  unfold State.doPortFormat
  rw [named, parsed]
  cases p with
  | trunk => exact absurd rfl branch
  | b1 | b2 | b3 | b4 => rfl

theorem exec_portFormat {seq : Chr} (h : Ready s ⟨seq, 0x04⟩) (counted : Command.portFormat.countOk params = true) :
    exec (.portFormat seq params) s =
      let r := (s.withAgent { s.agent with executing := some ⟨seq, 0x04⟩ }).doPortFormat params
      .next (r.1.buildReply ⟨seq, 0x04⟩ r.2) :=
  (exec_ready (k := .portFormat) rfl h rfl counted).trans rfl

end

theorem FormatRecord.trunkOk_iff (f : FormatRecord) : f.trunkOk = true ↔ f.width = .eight ∧ f.miss ≠ .passToTrunk := by
  unfold FormatRecord.trunkOk
  rw [Bool.and_eq_true, decide_eq_true_eq, decide_eq_true_eq]

/-- The number of parameters of PORT_FORMAT follows its pattern's length. -/
theorem countOk_portFormat {v : Chr} {rec : List Chr} (h : rec.length = 13 + 2 * (rec.getD 12 0).toNat) :
    Command.portFormat.countOk (v :: rec) = true := by
  have place : rec[12]? = some (rec.getD 12 0) := by
    rw [List.getD_eq_getElem?_getD, List.getElem?_eq_getElem (by omega)]
    rfl
  unfold Command.countOk
  dsimp only
  rw [List.getElem?_cons_succ, place]
  exact decide_eq_true (by rw [List.length_cons, h]; omega)

/-- Settles O39: a record in range by the port's state, a record out of range by the field that is. -/
theorem portFormatReply : Obligations.PortFormatReply := by
  refine ⟨fun seq p f s w ready ranges => ?_, fun seq v rec s w ready length => ?_⟩
  · obtain ⟨⟨_, few⟩, -⟩ := f.inRanges_iff.mp ranges
    have count : (f.chars.getD 12 0).toNat = f.pattern.length := natChr_toNat (by omega)
    have named : Port.ofChr (param (p.toChr :: f.chars) 0) = some p := Port.ofChr_toChr p
    have parsed : parseFormat ((p.toChr :: f.chars).drop 1) = some f := parseFormat_chars ranges
    refine ⟨_, exec_portFormat ready (countOk_portFormat (by rw [count, f.chars_length])), fun branch down => ?_,
      fun branch up => ?_, ?_, ?_⟩
    · exact .of_result (u := s.setPort p { s.port p with format := f })
        ((doPortFormat_branch branch named parsed).trans (if_pos down)) w (Nat.zero_le _)
    · exact .of_result ((doPortFormat_branch branch named parsed).trans (if_neg up)) w (Nat.zero_le _)
    · rintro rfl eight miss
      exact .of_result (u := s.withTrunk { s.trunk with pendingFormat := some f })
        ((doPortFormat_trunk named parsed).trans (if_pos (f.trunkOk_iff.mpr ⟨eight, miss⟩))) w (Nat.zero_le _)
    · rintro rfl unfit
      have refused : ¬ f.trunkOk = true := by
        rw [f.trunkOk_iff]
        rintro ⟨eight, miss⟩
        obtain k | k := unfit
        · rw [eight] at k; cases k
        · exact miss k
      exact .of_result ((doPortFormat_trunk named parsed).trans (if_neg refused)) w (Nat.zero_le _)
  · refine ⟨_, exec_portFormat ready (countOk_portFormat length), fun above => ?_, fun outside => ?_⟩
    · exact .of_result (doPortFormat_range (.inl (Port.ofChr_above above))) w (Nat.zero_le _)
    · refine .of_result (doPortFormat_range (.inr ?_)) w (Nat.zero_le _)
      change parseFormat rec = none
      refine Option.eq_none_iff_forall_not_mem.mpr fun f parsed => ?_
      obtain ⟨width, parity, stop, framing, miss, endGap, guardGap, overlap, retryLimit, abandonLimit, stuckLimit, pattern,
        count⟩ := parseFormat_some parsed
      obtain ⟨entries, each, endRange, guardRange, overlapRange, retry, abandon, stuck⟩ :=
        f.inRanges_iff.mp (parseFormat_inRanges parsed)
      rw [count] at entries
      rw [endGap] at endRange guardRange
      rw [guardGap] at guardRange
      rw [overlap] at overlapRange
      rw [retryLimit] at retry
      rw [abandonLimit] at abandon
      rw [stuckLimit] at stuck
      unfold param at *
      have place : ∀ k, k < (rec.getD 12 0).toNat →
          8 ≤ (rec.getD (13 + 2 * k) 0).toNat * 256 + (rec.getD (14 + 2 * k) 0).toNat
            ∧ (rec.getD (13 + 2 * k) 0).toNat * 256 + (rec.getD (14 + 2 * k) 0).toNat ≤ 4095 := by
        intro k hk
        have mem := parsePattern_mem (k := k) (cs := rec.drop 13) (by rw [List.length_drop]; omega)
        rw [← pattern] at mem
        have bound := each _ mem
        simp only [List.getD_eq_getElem?_getD, List.getElem?_drop] at bound ⊢
        rw [show 13 + (2 * k + 1) = 14 + 2 * k by omega] at bound
        exact bound
      have entry : ¬ ∃ k, k < (rec.getD 12 0).toNat
          ∧ ((rec.getD (13 + 2 * k) 0).toNat * 256 + (rec.getD (14 + 2 * k) 0).toNat < 8
            ∨ 4095 < (rec.getD (13 + 2 * k) 0).toNat * 256 + (rec.getD (14 + 2 * k) 0).toNat) := by
        rintro ⟨k, hk, out⟩
        have := place k hk
        omega
      simp only [entry, or_false] at outside
      omega

/-! ### SETTINGS_WRITE -/

theorem parseCheck_code (k : CheckKind) :
    parseCheck (match k with | .noCheck => 0x00 | .sum8 => 0x01 | .crc16 => 0x02) = some k := by
  cases k <;> rfl

theorem parseCheck_none {c : Chr} (h : 2 < c.toNat) : parseCheck c = none := by
  unfold parseCheck
  split
  · omega
  · omega
  · omega
  · rfl

theorem Settings.inRanges_iff (t : Settings) : t.inRanges = true ↔
    (2 ≤ t.length ∧ t.length ≤ 8) ∧ (1 ≤ t.reasonPos ∧ t.reasonPos ≤ t.length - 1)
      ∧ (1000 ≤ t.divisor ∧ t.divisor ≤ 16000) ∧ (10 ≤ t.breakLength ∧ t.breakLength ≤ 1000) := by
  unfold Settings.inRanges
  simp only [Bool.and_eq_true, inRange_iff, and_assoc]

/-- The settings a record of 18 characters carries, under check kind `k` (Table 10-15). -/
def settingsOf (cs : List Chr) (k : CheckKind) : Settings :=
  ⟨(cs.getD 0 0).toNat, (cs.getD 1 0).toNat, k, (cs.drop 3).take 8, cs.getD 11 0, cs.getD 12 0, cs.getD 13 0,
    (cs.getD 14 0).toNat * 256 + (cs.getD 15 0).toNat, (cs.getD 16 0).toNat * 256 + (cs.getD 17 0).toNat⟩

theorem parseSettings_eq {cs : List Chr} (length : cs.length = 18) {k : CheckKind} (check : parseCheck (cs.getD 2 0) = some k) :
    parseSettings cs = if (settingsOf cs k).inRanges then some (settingsOf cs k) else none := by
  have filler : ((List.range 8).map fun k => param cs (3 + k)) = (cs.drop 3).take 8 := by
    rw [← map_getD_range (n := 8) (cs := (cs.drop 3).take 8) (by simp [length])]
    refine List.map_congr_left fun k hk => ?_
    have low : k < 8 := List.mem_range.mp hk
    simp [param, List.getD_eq_getElem?_getD, low]
  have divisor := wordOf_toNat (param cs 14) (param cs 15)
  have breakLength := wordOf_toNat (param cs 16) (param cs 17)
  unfold parseSettings
  rw [show param cs 2 = cs.getD 2 0 from rfl, check]
  dsimp only
  rw [filler, divisor, breakLength]
  rfl

theorem parseSettings_none {cs : List Chr} (length : cs.length = 18)
    (h : 2 < (cs.getD 2 0).toNat ∨ ∀ k, ¬ (settingsOf cs k).inRanges = true) : parseSettings cs = none := by
  cases check : parseCheck (cs.getD 2 0) with
  | none =>
    unfold parseSettings
    rw [show param cs 2 = cs.getD 2 0 from rfl, check]
  | some k =>
    rw [parseSettings_eq length check]
    refine if_neg (h.resolve_left (fun above => ?_) k)
    rw [parseCheck_none above] at check
    cases check

section
variable {s : State} {cs : List Chr}

theorem doSettingsWrite_range (h : parseSettings cs = none) : s.doSettingsWrite cs = (s, Answer.refuse .range) := by
  unfold State.doSettingsWrite
  rw [h]

theorem doSettingsWrite_taken {t : Settings} (h : parseSettings cs = some t) :
    s.doSettingsWrite cs = ((s.withAgent { s.agent with settings := t }).withTable
      { s.exchanges with tickCount := if t.divisor = s.agent.settings.divisor then s.exchanges.tickCount else 0 },
      Answer.okWith []) := by
  unfold State.doSettingsWrite
  rw [h]

theorem exec_settingsWrite {seq : Chr} (h : Ready s ⟨seq, 0x10⟩) (length : cs.length = 18) :
    exec (.settingsWrite seq cs) s =
      let r := (s.withAgent { s.agent with executing := some ⟨seq, 0x10⟩ }).doSettingsWrite cs
      .next (r.1.buildReply ⟨seq, 0x10⟩ r.2) :=
  (exec_ready (k := .settingsWrite) rfl h rfl (decide_eq_true length)).trans rfl

end

/-- Settles O49, by whether the record is in range. -/
theorem settingsWriteReply : Obligations.SettingsWriteReply := by
  rintro seq cs s divisor breakLength w ready length rfl rfl
  refine ⟨_, exec_settingsWrite ready length, fun k long short low high check div divMax brk brkMax => ?_, fun outside => ?_⟩
  · have parsed := parseSettings_eq length (k := k) (by rw [check]; exact parseCheck_code k)
    rw [if_pos ((settingsOf cs k).inRanges_iff.mpr ⟨⟨long, short⟩, ⟨low, Nat.le_sub_one_of_lt high⟩, ⟨div, divMax⟩,
      ⟨brk, brkMax⟩⟩)] at parsed
    exact .of_result (u := (s.withAgent { s.agent with settings := settingsOf cs k }).withTable
      { s.exchanges with tickCount :=
          if (settingsOf cs k).divisor = s.agent.settings.divisor then s.exchanges.tickCount else 0 })
      (doSettingsWrite_taken parsed) w (Nat.zero_le _)
  · refine .of_result (doSettingsWrite_range (parseSettings_none length ?_)) w (Nat.zero_le _)
    by_cases above : 2 < (cs.getD 2 0).toNat
    · exact .inl above
    · refine .inr fun k => ?_
      rw [Settings.inRanges_iff]
      unfold settingsOf
      dsimp only
      omega

/-! ### ROUTE_READ and ROUTE_LIST -/

section
variable {r : RouteUnit} {b : Chr}

theorem readable_range (h : 1 < b.toNat) : r.readable b = .error .range := by
  unfold RouteUnit.readable
  split
  · omega
  · omega
  · rfl

theorem readable_active (h : b = 0) : r.readable b = .ok r.activeBank := by
  subst h
  rfl

theorem readable_shadow (h : b = 1) (reseeding : r.shadow ≠ .reseeding) (stale : r.shadow ≠ .stale) :
    r.readable b = .ok r.shadowBank := by
  subst h
  change (match r.shadow with
    | .reseeding => Except.error Result.busy
    | .stale => .error .state
    | .clean | .edited | .validating => .ok r.shadowBank) = _
  cases k : r.shadow with
  | reseeding => exact absurd k reseeding
  | stale => exact absurd k stale
  | clean | edited | validating => rfl

theorem readable_busy (h : b = 1) (reseeding : r.shadow = .reseeding) : r.readable b = .error .busy := by
  subst h
  unfold RouteUnit.readable
  rw [reseeding]
  rfl

theorem readable_stale (h : b = 1) (stale : r.shadow = .stale) : r.readable b = .error .state := by
  subst h
  unfold RouteUnit.readable
  rw [stale]
  rfl

end

section
variable {s : State} {b v a : Chr} {p : Port}

theorem doRouteRead_above (h : 4 < v.toNat) : s.doRouteRead b v a = (s, Answer.refuse .range) := by
  unfold State.doRouteRead
  rw [Port.ofChr_above h]

theorem doRouteRead_error {why : Result} (named : Port.ofChr v = some p) (h : s.routes.readable b = .error why) :
    s.doRouteRead b v a = (s, Answer.refuse why) := by
  unfold State.doRouteRead
  rw [named, h]

theorem doRouteRead_found {es : List RouteEntry} {x : RouteEntry} (named : Port.ofChr v = some p)
    (h : s.routes.readable b = .ok es) (found : findEntry es p a = some x) :
    s.doRouteRead b v a = (s, Answer.okWith x.chars) := by
  unfold State.doRouteRead
  rw [named, h]
  dsimp only
  rw [found]

theorem doRouteRead_absent {es : List RouteEntry} (named : Port.ofChr v = some p)
    (h : s.routes.readable b = .ok es) (missing : findEntry es p a = none) :
    s.doRouteRead b v a = (s, Answer.refuse .absent) := by
  unfold State.doRouteRead
  rw [named, h]
  dsimp only
  rw [missing]

theorem doRouteList_above (h : 4 < v.toNat) : s.doRouteList b v a = (s, Answer.refuse .range) := by
  unfold State.doRouteList
  rw [Port.ofChr_above h]

theorem doRouteList_error {why : Result} (named : Port.ofChr v = some p) (h : s.routes.readable b = .error why) :
    s.doRouteList b v a = (s, Answer.refuse why) := by
  unfold State.doRouteList
  rw [named, h]

/-- The first 40 of the entries at or after the start key (R8). -/
def listedKeys (v a : Chr) (es : List RouteEntry) : List RouteEntry :=
  (es.filter fun x => decide (v.toNat * 256 + a.toNat ≤ x.rank)).take 40

theorem doRouteList_listed {es : List RouteEntry} (named : v.toNat = p.number) (h : s.routes.readable b = .ok es) :
    s.doRouteList b v a = (s, ⟨.ok, BitVec.ofNat 8 (listedKeys v a es).length ::
      (listedKeys v a es).flatMap fun x => [BitVec.ofNat 8 x.arrival.number, x.address]⟩) := by
  unfold State.doRouteList listedKeys
  rw [Port.ofChr_number named, h, named]
  rfl

theorem execute_routeRead (id : RequestId) : s.execute .routeRead id [b, v, a] =
    let r := (s.withAgent { s.agent with executing := some id }).doRouteRead b v a
    r.1.buildReply id r.2 := rfl

theorem execute_routeList (id : RequestId) : s.execute .routeList id [b, v, a] =
    let r := (s.withAgent { s.agent with executing := some id }).doRouteList b v a
    r.1.buildReply id r.2 := rfl

theorem exec_routeRead {seq : Chr} (h : Ready s ⟨seq, 0x09⟩) :
    exec (.routeRead seq b v a) s =
      let r := (s.withAgent { s.agent with executing := some ⟨seq, 0x09⟩ }).doRouteRead b v a
      .next (r.1.buildReply ⟨seq, 0x09⟩ r.2) :=
  (exec_ready (k := .routeRead) rfl h rfl rfl).trans (congrArg _ (execute_routeRead _))

theorem exec_routeList {seq : Chr} (h : Ready s ⟨seq, 0x0A⟩) :
    exec (.routeList seq b v a) s =
      let r := (s.withAgent { s.agent with executing := some ⟨seq, 0x0A⟩ }).doRouteList b v a
      .next (r.1.buildReply ⟨seq, 0x0A⟩ r.2) :=
  (exec_ready (k := .routeList) rfl h rfl rfl).trans (congrArg _ (execute_routeList _))

/-- The bank that can be read: the active one always, the shadow one out of RESEEDING and STALE (R8). -/
theorem readable_ok {r : RouteUnit} {es : List RouteEntry}
    (h : b = 0 ∧ es = r.activeBank ∨ b = 1 ∧ es = r.shadowBank ∧ r.shadow ≠ .reseeding ∧ r.shadow ≠ .stale) :
    r.readable b = .ok es := by
  obtain ⟨zero, rfl⟩ | ⟨one, rfl, reseeding, stale⟩ := h
  · exact readable_active zero
  · exact readable_shadow one reseeding stale

end

theorem RouteEntry.chars_length (e : RouteEntry) : e.chars.length = 11 := rfl

/-- Settles O45, by the port, then the bank, then the key. -/
theorem routeReadsReply : Obligations.RouteReadsReply := by
  intro seq b v a s w
  refine ⟨fun ready => ⟨_, exec_routeRead ready, fun outside => ?_, fun one low reseeding => ?_, fun one low stale => ?_,
      fun p es named bank => ⟨fun x found => ?_, fun missing => ?_⟩⟩,
    fun ready => ⟨_, exec_routeList ready, fun outside => ?_, fun one low reseeding => ?_, fun one low stale => ?_,
      fun es low bank => ?_⟩⟩
  · by_cases above : 4 < v.toNat
    · exact .of_result (doRouteRead_above above) w (Nat.zero_le _)
    · obtain ⟨p, named⟩ := Port.exists_number (Nat.not_lt.mp above)
      exact .of_result (doRouteRead_error (Port.ofChr_number named) (readable_range (outside.resolve_right above))) w
        (Nat.zero_le _)
  · obtain ⟨p, named⟩ := Port.exists_number low
    exact .of_result (doRouteRead_error (Port.ofChr_number named) (readable_busy one reseeding)) w (Nat.zero_le _)
  · obtain ⟨p, named⟩ := Port.exists_number low
    exact .of_result (doRouteRead_error (Port.ofChr_number named) (readable_stale one stale)) w (Nat.zero_le _)
  · exact .of_result (doRouteRead_found (Port.ofChr_number named) (readable_ok bank) found) w
      (show x.chars.length ≤ 249 by rw [x.chars_length]; decide)
  · exact .of_result (doRouteRead_absent (Port.ofChr_number named) (readable_ok bank) missing) w (Nat.zero_le _)
  · by_cases above : 4 < v.toNat
    · exact .of_result (doRouteList_above above) w (Nat.zero_le _)
    · obtain ⟨p, named⟩ := Port.exists_number (Nat.not_lt.mp above)
      exact .of_result (doRouteList_error (Port.ofChr_number named) (readable_range (outside.resolve_right above))) w
        (Nat.zero_le _)
  · obtain ⟨p, named⟩ := Port.exists_number low
    exact .of_result (doRouteList_error (Port.ofChr_number named) (readable_busy one reseeding)) w (Nat.zero_le _)
  · obtain ⟨p, named⟩ := Port.exists_number low
    exact .of_result (doRouteList_error (Port.ofChr_number named) (readable_stale one stale)) w (Nat.zero_le _)
  · obtain ⟨p, named⟩ := Port.exists_number low
    have few : (listedKeys v a es).length ≤ 40 := List.length_take_le _ _
    refine ⟨listedKeys v a es, List.take_prefix _ _, few, fun short => ?_,
      .of_result (doRouteList_listed named (readable_ok bank)) w ?_⟩
    · refine List.take_of_length_le ?_
      rw [listedKeys, List.length_take] at short
      omega
    · dsimp only
      rw [List.length_cons, length_flatMap_records (k := 2) fun _ => rfl]
      omega

/-! ### ROUTE_WRITE -/

section
variable {mgmt : Chr} {e : RouteEntry}

/-- What makes an entry illegal (R1, R3). -/
theorem RouteEntry.legal_iff : e.legal mgmt = true ↔
    e.destinationList ≠ [] ∧ e.destinations.get e.arrival = false
      ∧ (e.reply = none ∨ e.destinationList.length = 1) ∧ ¬(e.arrival = .trunk ∧ e.address = mgmt)
      ∧ ¬(e.destinations.trunk = true ∧ e.effectiveEgress = mgmt) := by
  unfold RouteEntry.legal
  rw [Bool.and_eq_true, Bool.and_eq_true, Bool.and_eq_true, Bool.and_eq_true, Bool.not_eq_true', Bool.not_eq_true',
    Bool.not_eq_true', Bool.not_eq_true', Bool.or_eq_true, Bool.and_eq_false_iff, Bool.and_eq_false_iff]
  simp only [decide_eq_false_iff_not, decide_eq_true_eq, List.isEmpty_eq_false_iff, Option.isNone_iff_eq_none, and_assoc,
    not_and_or, Bool.not_eq_true]

end

section
variable {port address dests flags egress : Chr} {window count reload : Word16} {e : RouteEntry}

/-- What the fields of a record that is taken say of the entry (Tables 1-1 and 1-2). -/
structure RouteTaken (port address dests flags egress : Chr) (window count reload : Word16) (e : RouteEntry) : Prop where
  arrival : port.toNat = e.arrival.number
  destsBound : dests.toNat ≤ 31
  flagsBound : flags.toNat ≤ 31
  destinations : e.destinations = destinationsOf dests
  key : e.address = address
  egress : e.egress = if flags.getLsbD 0 then some egress else none
  reply : flags.getLsbD 1 = true → e.reply ≠ none ∧ 1 ≤ window.toNat ∧ window.toNat ≤ 4000
  allowance : flags.getLsbD 3 = true → 1 ≤ count.toNat ∧ 1 ≤ reload.toNat

theorem parseReply_taken {standIn : Bool} {w : Word16} {x : Option ReplySpec} (h : parseReply true standIn w = some x) :
    x ≠ none ∧ 1 ≤ w.toNat ∧ w.toNat ≤ 4000 := by
  unfold parseReply at h
  rw [if_pos rfl] at h
  split at h
  · next range =>
    cases h
    exact ⟨Option.some_ne_none _, range⟩
  · cases h

theorem parseAllowance_taken {mode : Bool} {n k : Word16} {x : Option Allowance} (h : parseAllowance true mode n k = some x) :
    1 ≤ n.toNat ∧ 1 ≤ k.toNat := by
  unfold parseAllowance at h
  rw [if_pos rfl] at h
  split at h
  · next range => exact range
  · cases h

theorem Port.ofChr_some {v : Chr} {p : Port} (h : Port.ofChr v = some p) : v.toNat = p.number := by
  by_cases low : v.toNat ≤ 4
  · obtain ⟨q, named⟩ := Port.exists_number low
    rw [Port.ofChr_number named] at h
    cases h
    exact named
  · rw [Port.ofChr_above (Nat.lt_of_not_le low)] at h
    cases h

theorem parseRoute_taken (h : parseRoute (routeRecord port address dests flags egress window count reload) = some e) :
    RouteTaken port address dests flags egress window count reload e := by
  have windowField : wordOf (hiChr window) (loChr window) = window := wordOf_hiChr_loChr _
  have countField : wordOf (hiChr count) (loChr count) = count := wordOf_hiChr_loChr _
  have reloadField : wordOf (hiChr reload) (loChr reload) = reload := wordOf_hiChr_loChr _
  change (match Port.ofChr port,
      parseReply (flags.getLsbD 1) (flags.getLsbD 2) (wordOf (hiChr window) (loChr window)),
      parseAllowance (flags.getLsbD 3) (flags.getLsbD 4) (wordOf (hiChr count) (loChr count))
        (wordOf (hiChr reload) (loChr reload)) with
    | some p, some reply, some allowance =>
      if dests.toNat < 32 ∧ flags.toNat < 32 then
        some ({ arrival := p, address := address, destinations := destinationsOf dests,
                egress := if flags.getLsbD 0 then some egress else none,
                reply := reply, allowance := allowance, retired := false } : RouteEntry)
      else none
    | _, _, _ => none) = some e at h
  rw [windowField, countField, reloadField] at h
  split at h
  · next p reply allowance arrival replied allowed =>
    split at h
    · next bound =>
      cases h
      refine ⟨Port.ofChr_some arrival, by omega, by omega, rfl, rfl, rfl, fun bit => ?_, fun bit => ?_⟩
      · rw [bit] at replied
        exact parseReply_taken replied
      · rw [bit] at allowed
        exact parseAllowance_taken allowed
    · cases h
  · cases h

/-- The destinations of the mask's bits 0 to 4, by their numbers. -/
theorem destinationList_length (h : e.destinations = destinationsOf dests) :
    e.destinationList.length = ((List.range 5).filter dests.getLsbD).length := by
  unfold RouteEntry.destinationList
  rw [h, ← List.countP_eq_length_filter, ← List.countP_eq_length_filter]
  change List.countP _ [Port.trunk, .b1, .b2, .b3, .b4] = List.countP dests.getLsbD [0, 1, 2, 3, 4]
  simp only [List.countP_cons, List.countP_nil]
  rfl

theorem destinations_get (h : e.destinations = destinationsOf dests) (p : Port) :
    e.destinations.get p = dests.getLsbD p.number := by
  rw [h]
  cases p <;> rfl

/-- A record that fails a check of R3 gives no legal entry. -/
theorem illegal_of_field {mgmt : Chr}
    (fails : 4 < port.toNat ∨ 31 < dests.toNat ∨ 31 < flags.toNat ∨ dests = 0
      ∨ dests.getLsbD port.toNat = true
      ∨ flags.getLsbD 1 = true ∧ (window.toNat = 0 ∨ 4000 < window.toNat)
      ∨ flags.getLsbD 1 = true ∧ ((List.range 5).filter dests.getLsbD).length ≠ 1
      ∨ flags.getLsbD 3 = true ∧ (count = 0 ∨ reload = 0)
      ∨ port = 0 ∧ address = mgmt
      ∨ dests.getLsbD 0 = true ∧ (if flags.getLsbD 0 then egress else address) = mgmt)
    (h : parseRoute (routeRecord port address dests flags egress window count reload) = some e) : e.legal mgmt = false := by
  obtain ⟨arrival, destsBound, flagsBound, destinations, key, egressField, reply, allowance⟩ := parseRoute_taken h
  have get := destinations_get destinations
  have length := destinationList_length destinations
  rw [← Bool.not_eq_true, RouteEntry.legal_iff]
  rintro ⟨some, others, one, local_, remote⟩
  obtain k | k | k | rfl | k | ⟨bit, k⟩ | ⟨bit, k⟩ | ⟨bit, k⟩ | ⟨rfl, rfl⟩ | ⟨bit, k⟩ := fails
  · have : e.arrival.number ≤ 4 := by cases e.arrival <;> decide
    omega
  · omega
  · omega
  · exact some (List.length_eq_zero_iff.mp (length.trans (by decide)))
  · rw [get, ← arrival, k] at others
    cases others
  · obtain ⟨_, low, high⟩ := reply bit
    omega
  · obtain ⟨asks, -⟩ := reply bit
    exact k (length.symm.trans (one.resolve_left asks))
  · obtain ⟨counted, reloads⟩ := allowance bit
    obtain rfl | rfl := k
    · exact absurd counted (by decide)
    · exact absurd reloads (by decide)
  · refine local_ ⟨?_, key⟩
    cases p : e.arrival with
    | trunk => rfl
    | b1 | b2 | b3 | b4 => rw [p] at arrival; cases arrival
  · refine remote ⟨(get .trunk).trans bit, ?_⟩
    rw [← k, RouteEntry.effectiveEgress, egressField, key]
    cases flags.getLsbD 0 <;> rfl

end

section
variable {s : State} {params : List Chr}

theorem doRouteWrite_refused {why : Result} (h : s.routes.editRefusal = some why) :
    s.doRouteWrite params = (s, Answer.refuse why) := by
  unfold State.doRouteWrite
  rw [h]

theorem doRouteWrite_range (h : s.routes.editRefusal = none)
    (illegal : ∀ e, parseRoute params = some e → e.legal s.mgmtAddress = false) :
    s.doRouteWrite params = (s, Answer.refuse .range) := by
  unfold State.doRouteWrite
  rw [h]
  cases parsed : parseRoute params with
  | none => rfl
  | some e =>
    dsimp only
    rw [illegal e parsed]
    rfl

variable {e : RouteEntry}

theorem doRouteWrite_full (h : s.routes.editRefusal = none) (parsed : parseRoute params = some e)
    (legal : e.legal s.mgmtAddress = true) (missing : findEntry s.routes.shadowBank e.arrival e.address = none)
    (full : 128 ≤ s.routes.shadowBank.length) : s.doRouteWrite params = (s, Answer.refuse .full) := by
  unfold State.doRouteWrite
  rw [h, parsed]
  dsimp only
  rw [legal]
  refine (if_neg Bool.false_ne_true).trans (if_pos ?_)
  exact ⟨Option.isNone_iff_eq_none.mpr missing, full⟩

theorem doRouteWrite_taken (h : s.routes.editRefusal = none) (parsed : parseRoute params = some e)
    (legal : e.legal s.mgmtAddress = true)
    (room : ¬(findEntry s.routes.shadowBank e.arrival e.address = none ∧ 128 ≤ s.routes.shadowBank.length)) :
    s.doRouteWrite params = (s.withRoutes (s.routes.edited (insertEntry e s.routes.shadowBank)),
      Answer.okWith [natChr (insertEntry e s.routes.shadowBank).length]) := by
  unfold State.doRouteWrite
  rw [h, parsed]
  dsimp only
  rw [legal]
  refine (if_neg Bool.false_ne_true).trans (if_neg ?_)
  rw [Option.isNone_iff_eq_none]
  exact room

end

theorem exec_routeWrite {s : State} {seq port address dests flags egress : Chr} {window count reload : Word16}
    (h : Ready s ⟨seq, 0x07⟩) :
    exec (.routeWrite seq port address dests flags egress window count reload) s =
      let r := (s.withAgent { s.agent with executing := some ⟨seq, 0x07⟩ }).doRouteWrite
        (routeRecord port address dests flags egress window count reload)
      .next (r.1.buildReply ⟨seq, 0x07⟩ r.2) :=
  (exec_ready (k := .routeWrite) rfl h rfl rfl).trans rfl

theorem findEntry_none_iff {es : List RouteEntry} {e : RouteEntry} :
    findEntry es e.arrival e.address = none ↔ ∀ y ∈ es, y.rank ≠ e.rank := by
  refine ⟨fun missing y hy same => ?_, findEntry_isNone⟩
  exact List.find?_eq_none.mp missing y hy (decide_eq_true ((RouteEntry.rank_eq_iff y _ _).mp same))

/-- Settles O43, by the shadow state, then the record, then the room. -/
theorem routeWriteReply : Obligations.RouteWriteReply := by
  refine ⟨fun seq port address dests flags egress window count reload s x w ready sound editable parsed legal room => ?_,
    fun seq port address dests flags egress window count reload s w ready => ⟨_, exec_routeWrite ready, fun busy => ?_,
      fun stale => ?_, fun editable fails => ?_, fun x editable parsed legal missing full => ?_⟩⟩
  · have ordered : KeyOrdered s.routes.shadowBank := sound.bank_ordered _
    have fits : ¬(findEntry s.routes.shadowBank x.arrival x.address = none ∧ 128 ≤ s.routes.shadowBank.length) := by
      rw [findEntry_none_iff]
      rintro ⟨missing, full⟩
      obtain ⟨y, hy, same⟩ | short := room
      · exact missing y hy same
      · exact absurd short (Nat.not_lt.mpr full)
    have bank : (s.routes.edited (insertEntry x s.routes.shadowBank)).shadowBank = insertEntry x s.routes.shadowBank :=
      RouteUnit.setShadow_shadowBank _ _
    refine ⟨_, s.withRoutes (s.routes.edited (insertEntry x s.routes.shadowBank)), exec_routeWrite ready, ?_, ?_,
      fun y => ?_, ?_⟩
    · rw [bank]
      exact .of_result (u := s.withRoutes (s.routes.edited (insertEntry x s.routes.shadowBank)))
        (doRouteWrite_taken (RouteUnit.editRefusal_open editable) parsed legal fits) w
        (show 1 ≤ 249 by decide)
    · rw [bank]
      rfl
    · rw [bank]
      exact mem_insertEntry ordered y
    · rw [bank]
      exact insertEntry_ordered ordered
  · exact .of_result (doRouteWrite_refused (RouteUnit.editRefusal_busy busy)) w (Nat.zero_le _)
  · exact .of_result (doRouteWrite_refused (RouteUnit.editRefusal_stale stale)) w (Nat.zero_le _)
  · exact .of_result (doRouteWrite_range (RouteUnit.editRefusal_open editable) fun e => illegal_of_field fails) w
      (Nat.zero_le _)
  · exact .of_result (doRouteWrite_full (RouteUnit.editRefusal_open editable) parsed legal missing full) w (Nat.zero_le _)

end Sys2Proof.Machine
end

section
/-! PROOFS. Coding: the residue of the CRC (R174), and a character sent, received in the same format (R139, R141, R143). -/

namespace Sys2Proof.Machine

/-! ### The CRC -/

/-- A bit that agrees with the one leaving the register only shifts it. -/
theorem crcBit_msb (r : Word16) : crcBit r r.msb = r <<< 1 := by
  unfold crcBit
  rw [bne_self_eq_false, if_neg Bool.false_ne_true]

theorem msb_shiftLeft (r : Word16) {k : Nat} (h : k < 16) : (r <<< k).msb = r.getLsbD (15 - k) := by
  rw [BitVec.msb_eq_getLsbD_last, BitVec.getLsbD_shiftLeft]
  simp
  omega

/-- A character whose bits are the register's high ones shifts the register by eight. -/
theorem crcChar_high (r : Word16) {c : Chr} (h : ∀ k, k < 8 → c.getLsbD k = r.getLsbD (8 + k)) : crcChar r c = r <<< 8 := by
  have step : ∀ k, k < 8 → crcBit (r <<< k) (c.getLsbD (7 - k)) = r <<< (k + 1) := by
    intro k hk
    have bit : c.getLsbD (7 - k) = (r <<< k).msb := by
      rw [h _ (by omega), msb_shiftLeft r (by omega), show 8 + (7 - k) = 15 - k by omega]
    rw [bit, crcBit_msb, BitVec.shiftLeft_add]
  have first := step 0 (by decide)
  rw [BitVec.shiftLeft_zero] at first
  unfold crcChar
  simp only [List.foldl_cons, List.foldl_nil]
  rw [first, step 1 (by decide), step 2 (by decide), step 3 (by decide), step 4 (by decide), step 5 (by decide),
    step 6 (by decide), step 7 (by decide)]

/-- A register run through its own two characters is cleared. -/
theorem foldl_crcChar_self (r : Word16) : (twoChars r).foldl crcChar r = 0 := by
  have high : crcChar r (hiChr r) = r <<< 8 := crcChar_high r fun k hk => by
    unfold hiChr
    rw [BitVec.getLsbD_extractLsb', decide_eq_true hk, Bool.true_and]
  have low : crcChar (r <<< 8) (loChr r) = (r <<< 8) <<< 8 := crcChar_high _ fun k hk => by
    unfold loChr
    rw [BitVec.getLsbD_extractLsb', decide_eq_true hk, BitVec.getLsbD_shiftLeft]
    simp
    omega
  change crcChar (crcChar r (hiChr r)) (loChr r) = 0
  rw [high, low, ← BitVec.shiftLeft_add]
  exact BitVec.shiftLeft_eq_zero (by decide)

theorem crc16_append_self (cs : List Chr) : crc16 (cs ++ twoChars (crc16 cs)) = 0 := by
  unfold crc16
  rw [List.foldl_append]
  exact foldl_crcChar_self _

/-- Settles O52: a reply is its body followed by the body's CRC. -/
theorem crcResidueIsZero : Obligations.CrcResidueIsZero := by
  refine ⟨crc16_append_self, fun s id a => ⟨crc16_append_self _, ?_⟩⟩
  unfold State.replyChars twoChars
  simp only [List.length_append, List.length_cons, List.length_nil]
  omega

/-! ### The levels of a character -/

theorem isMark_ofBit (b : Bool) : (Level.ofBit b).isMark = b := by cases b <;> rfl

theorem map_isMark_ofBit (bs : List Bool) : (bs.map Level.ofBit).map Level.isMark = bs := by
  rw [List.map_map]
  exact (List.map_congr_left fun b _ => isMark_ofBit b).trans (List.map_id bs)

theorem dataBits_length (f : FormatRecord) (c : Chr) : (f.dataBits c).length = f.width.bits := by
  unfold FormatRecord.dataBits
  rw [List.length_map, List.length_range]

section
variable (f : FormatRecord) (c : Chr) (m : Bool)

/-- The bits after the data bits, first stop bit included. -/
def FormatRecord.tailBits : List Bool :=
  (if f.hasMarker then [m] else []) ++ (if f.hasParity then [f.parityBit c m] else []) ++ [true]

theorem tailBits_length : (f.tailBits c m).length = f.hasMarker.toNat + f.hasParity.toNat + 1 := by
  unfold FormatRecord.tailBits
  cases f.hasMarker <;> cases f.hasParity <;> rfl

theorem tailBits_marker : (f.hasMarker && (f.tailBits c m).getD 0 false) = (f.hasMarker && m) := by
  unfold FormatRecord.tailBits
  cases f.hasMarker <;> rfl

theorem tailBits_parity : (f.hasParity && (f.tailBits c m).getD f.hasMarker.toNat false) = (f.hasParity && f.parityBit c m) := by
  unfold FormatRecord.tailBits
  cases f.hasMarker <;> cases f.hasParity <;> rfl

theorem tailBits_stop : (f.tailBits c m).getD (f.hasMarker.toNat + f.hasParity.toNat) false = true := by
  unfold FormatRecord.tailBits
  cases f.hasMarker <;> cases f.hasParity <;> rfl

/-- The bits sampled through the first stop bit: start bit, data bits, the rest. -/
theorem sampled_bits : ((f.levels c m).take (f.firstStop + 1)).map Level.isMark
    = false :: (f.dataBits c ++ f.tailBits c m) := by
  have stops : ∃ rest, List.replicate f.stopBits.bits Level.mark = .mark :: rest := by
    cases f.stopBits
    · exact ⟨[], rfl⟩
    · exact ⟨[.mark], rfl⟩
  obtain ⟨rest, stops⟩ := stops
  have tail : f.levels c m = (.space :: ((f.dataBits c).map Level.ofBit ++ (f.tailBits c m).map Level.ofBit)) ++ rest := by
    unfold FormatRecord.levels FormatRecord.tailBits
    rw [stops]
    cases f.hasMarker <;> cases f.hasParity <;> simp [Level.ofBit]
  have length : (Level.space :: ((f.dataBits c).map Level.ofBit ++ (f.tailBits c m).map Level.ofBit)).length = f.firstStop + 1 := by
    rw [List.length_cons, List.length_append, List.length_map, List.length_map, dataBits_length, tailBits_length]
    unfold FormatRecord.firstStop
    omega
  rw [tail, ← length, List.take_left, List.map_cons, List.map_append, map_isMark_ofBit, map_isMark_ofBit]
  rfl

/-- A bit past the data bits, by its place in the rest. -/
theorem getD_past_data (xs ys : List Bool) (k : Nat) : (false :: (xs ++ ys)).getD (1 + xs.length + k) false = ys.getD k false := by
  rw [show 1 + xs.length + k = (xs.length + k) + 1 by omega, List.getD_cons_succ, List.getD_append_right _ _ _ _ (by omega)]
  congr 1
  omega

end

/-! ### The value of the data bits -/

theorem bitsValue_testBit (n : Nat) : ∀ x : Nat, bitsValue ((List.range n).map x.testBit) = x % 2 ^ n := by
  induction n with
  | zero => exact fun x => (Nat.mod_one x).symm
  | succ n ih =>
    intro x
    have rest : (List.range n).map (x.testBit ∘ Nat.succ) = (List.range n).map (x / 2).testBit :=
      List.map_congr_left fun k _ => Nat.testBit_succ x k
    rw [List.range_succ_eq_map, List.map_cons, List.map_map, rest, bitsValue, ih, Nat.pow_succ', Nat.mod_mul]
    congr 1
    rw [Nat.testBit_zero]
    obtain k | k := Nat.mod_two_eq_zero_or_one x <;> rw [k] <;> rfl

theorem dataBits_value (f : FormatRecord) (c : Chr) : BitVec.ofNat 8 (bitsValue (f.dataBits c)) = f.fit c := by
  have value : bitsValue (f.dataBits c) = c.toNat % 2 ^ f.width.bits := bitsValue_testBit _ c.toNat
  rw [value]
  unfold FormatRecord.fit
  apply BitVec.eq_of_toNat_eq
  rw [BitVec.toNat_ofNat]
  cases f.width with
  | seven =>
    dsimp only
    rw [BitVec.toNat_and]
    change c.toNat % 2 ^ 7 % 256 = c.toNat &&& 2 ^ 7 - 1
    rw [Nat.and_two_pow_sub_one_eq_mod]
    omega
  | eight =>
    change c.toNat % 2 ^ 8 % 256 = c.toNat
    have := c.isLt
    omega

/-- Only the data bits sent count for parity, and the fitted value has them all. -/
theorem dataBits_fit (f : FormatRecord) (c : Chr) : f.dataBits (f.fit c) = f.dataBits c := by
  unfold FormatRecord.dataBits FormatRecord.fit
  cases f.width with
  | eight => rfl
  | seven =>
    refine List.map_congr_left fun k hk => ?_
    have low : k < 7 := List.mem_range.mp hk
    dsimp only
    rw [BitVec.getLsbD_and]
    interval_cases k <;> exact Bool.and_true _

theorem parityBit_fit (f : FormatRecord) (c : Chr) (m : Bool) : f.parityBit (f.fit c) (f.hasMarker && m) = f.parityBit c m := by
  unfold FormatRecord.parityBit
  rw [dataBits_fit]
  cases f.hasMarker <;> rfl

/-- The parity bit makes the count even under EVEN and odd under ODD. -/
theorem parityBit_counts (f : FormatRecord) (c : Chr) (m : Bool) (some : f.parity ≠ .noParity) :
    (countOnes (f.dataBits c) + (f.hasMarker && m).toNat + (f.parityBit c m).toNat) % 2 = if f.parity = .even then 0 else 1 := by
  unfold FormatRecord.parityBit
  generalize countOnes (f.dataBits c) + (f.hasMarker && m).toNat = n
  cases parity : f.parity with
  | noParity => exact absurd parity some
  | even =>
    rw [if_pos rfl]
    dsimp only
    by_cases odd : n % 2 = 1
    · rw [decide_eq_true odd]
      change (n + 1) % 2 = 0
      omega
    · rw [decide_eq_false odd]
      change (n + 0) % 2 = 0
      omega
  | odd =>
    rw [if_neg (by decide)]
    dsimp only
    by_cases even : n % 2 = 0
    · rw [decide_eq_true even]
      change (n + 1) % 2 = 1
      omega
    · rw [decide_eq_false even]
      change (n + 0) % 2 = 1
      omega

/-- Settles O51: each part of the report is read from its place among the sampled bits. -/
theorem sentCharacterIsReceived : Obligations.SentCharacterIsReceived := by
  intro f c m
  refine ⟨?_, ?_, ?_, ?_, parityBit_counts f c m⟩
  · have width := dataBits_length f c
    have marker := getD_past_data (f.dataBits c) (f.tailBits c m) 0
    have parity := getD_past_data (f.dataBits c) (f.tailBits c m) f.hasMarker.toNat
    have stop := getD_past_data (f.dataBits c) (f.tailBits c m) (f.hasMarker.toNat + f.hasParity.toNat)
    rw [width] at marker parity stop
    have place : f.firstStop = 1 + f.width.bits + (f.hasMarker.toNat + f.hasParity.toNat) := by
      unfold FormatRecord.firstStop
      omega
    have data : ((false :: (f.dataBits c ++ f.tailBits c m)).drop 1).take f.width.bits = f.dataBits c := by
      rw [← width]
      exact List.take_left
    have good : (f.hasParity && ((f.hasParity && f.parityBit c m) != f.parityBit c m)) = false := by
      cases f.hasParity with
      | false => rfl
      | true => rw [Bool.true_and, Bool.true_and, bne_self_eq_false]
    unfold FormatRecord.report
    dsimp only
    rw [sampled_bits, data, ← Nat.add_zero (1 + f.width.bits), marker, Nat.add_zero, parity, place, stop, tailBits_marker,
      tailBits_parity, tailBits_stop, dataBits_value, parityBit_fit, if_pos rfl, good, if_neg Bool.false_ne_true]
  · unfold FormatRecord.levels FormatRecord.charBits FormatRecord.firstStop
    rw [List.length_append, List.length_append, List.length_append, List.length_append, List.length_map, dataBits_length,
      List.length_replicate]
    cases f.hasMarker <;> cases f.hasParity <;> rfl
  · unfold FormatRecord.charBits FormatRecord.firstStop
    have width : 7 ≤ f.width.bits := by cases f.width <;> decide
    have stops : 1 ≤ f.stopBits.bits := by cases f.stopBits <;> decide
    omega
  · unfold FormatRecord.charBits FormatRecord.firstStop
    have width : f.width.bits ≤ 8 := by cases f.width <;> decide
    have stops : f.stopBits.bits ≤ 2 := by cases f.stopBits <;> decide
    have marker := Bool.toNat_le f.hasMarker
    have parity := Bool.toNat_le f.hasParity
    omega

end Sys2Proof.Machine
end

section
/-! PROOFS. The idle step: one tick of the reference clock (R51, R115, R130 to R132, R135, R136, R145), and the event that
is due first (R140 to R143). -/

namespace Sys2Proof.Machine

/-! ### An operation on every port -/

/-- An operation that changes each port from its own state, and no other block, done on each port of a list. -/
theorem foldl_perPort {op : State → Port → State} {new : State → Port → PortState}
    (is : ∀ s p, op s p = s.setPort p (new s p)) (own : ∀ s q x p, p ≠ q → new (s.setPort q x) p = new s p) :
    ∀ {l : List Port}, l.Nodup → ∀ s : State,
      (∀ p ∈ l, (l.foldl op s).port p = new s p) ∧ (∀ p, p ∉ l → (l.foldl op s).port p = s.port p)
        ∧ l.foldl op s = { s with ports := (l.foldl op s).ports } := by
  intro l
  induction l with
  | nil => exact fun _ s => ⟨fun p h => absurd h List.not_mem_nil, fun _ _ => rfl, rfl⟩
  | cons q l ih =>
    intro nodup s
    obtain ⟨fresh, nodup⟩ := List.nodup_cons.mp nodup
    obtain ⟨inside, outside, rest⟩ := ih nodup (op s q)
    rw [List.foldl_cons]
    rw [is s q] at *
    refine ⟨fun p hp => ?_, fun p hp => ?_, rest⟩
    · obtain rfl | hp := List.mem_cons.mp hp
      · rw [outside p fresh, State.setPort_port]
      · have other : p ≠ q := fun e => fresh (e ▸ hp)
        rw [inside p hp, own s q _ p other]
    · have other : p ≠ q := fun e => hp (e ▸ List.mem_cons_self)
      rw [outside p fun h => hp (List.mem_cons_of_mem q h), State.setPort_port_other _ _ other]

theorem Port.all_nodup : Port.all.Nodup := by decide

/-! ### One tick of a port -/

/-- Port `p` after a tick, but for what a millisecond boundary adds. -/
def State.ticked (s : State) (p : Port) : PortState :=
  { (s.port p).tickSpans with
    charReceiver := (s.port p).charReceiver.tick (s.port p).rxPin
    transmitter := (s.port p).transmitter.tick (s.port p).receiver.compared (s.nextSent p) }

theorem ticked_own (s : State) (q : Port) (x : PortState) (p : Port) (h : p ≠ q) : (s.setPort q x).ticked p = s.ticked p := by
  unfold State.ticked State.nextSent State.entryLength
  rw [State.scheduler_def, State.scheduler_def, State.setPort_port_other s x h]
  rfl

/-- A tick moves the spans of the line alone. -/
theorem tickSpans_eq (x : PortState) : x.tickSpans =
    { x with markSpan := x.tickSpans.markSpan, charTail := x.tickSpans.charTail, spaceSpan := x.tickSpans.spaceSpan } := by
  unfold PortState.tickSpans
  split
  · split <;> rfl
  · split <;> rfl

theorem ticked_eq (s : State) (p : Port) : s.ticked p = { s.port p with
    markSpan := (s.port p).tickSpans.markSpan, charTail := (s.port p).tickSpans.charTail,
    spaceSpan := (s.port p).tickSpans.spaceSpan, charReceiver := (s.port p).charReceiver.tick (s.port p).rxPin,
    transmitter := (s.port p).transmitter.tick (s.port p).receiver.compared (s.nextSent p) } := by
  unfold State.ticked
  rw [tickSpans_eq]

/-- The lines after a tick, before the break is armed and the millisecond base counts. -/
def State.ticking (s : State) : State := Port.all.foldl State.tickPort s

theorem ticking_port (s : State) (p : Port) : s.ticking.port p = s.ticked p :=
  (foldl_perPort (op := State.tickPort) (fun _ _ => rfl) ticked_own Port.all_nodup s).1 p (Port.mem_all p)

theorem ticking_eq (s : State) : s.ticking = { s with ports := s.ticking.ports } :=
  (foldl_perPort (op := State.tickPort) (fun _ _ => rfl) ticked_own Port.all_nodup s).2.2

theorem ticking_blocks (s : State) : s.ticking.trunk = s.trunk ∧ s.ticking.exchanges = s.exchanges ∧ s.ticking.agent = s.agent := by
  have same := ticking_eq s
  refine ⟨?_, ?_, ?_⟩ <;> rw [same]

/-! ### The break and the millisecond boundary -/

/-- The break after a tick: armed by a line at mark (R132). -/
def State.tickBreak (s : State) : BreakState := if (s.port .trunk).rxPin = .mark then .armed else s.trunk.breakState

theorem rearmBreak_ticking (s : State) : s.ticking.rearmBreak = s.ticking.withTrunk { s.trunk with breakState := s.tickBreak } := by
  obtain ⟨trunk, -, -⟩ := ticking_blocks s
  have pin : (s.ticking.port .trunk).rxPin = (s.port .trunk).rxPin := by rw [ticking_port, ticked_eq]
  unfold State.rearmBreak State.tickBreak
  rw [pin]
  cases (s.port .trunk).rxPin with
  | mark =>
    rw [if_pos rfl, ← trunk]
  | space =>
    rw [if_neg (by decide), ← trunk]

/-- A port at a boundary, its space count compared with `limit` where there is one (R130). -/
def PortState.atBoundary (x : PortState) (limit : Option Nat) : PortState :=
  match x.rxPin with
  | .mark => x
  | .space =>
    { x with
      spaceCount := bump x.spaceCount
      limitReached := match limit with | some n => decide (n ≤ bump x.spaceCount) | none => false }

theorem atBoundary_mark {x : PortState} (h : x.rxPin = .mark) (limit : Option Nat) : x.atBoundary limit = x := by
  unfold PortState.atBoundary
  rw [h]

theorem atBoundary_space {x : PortState} (h : x.rxPin = .space) (limit : Option Nat) : x.atBoundary limit =
    { x with
      spaceCount := bump x.spaceCount
      limitReached := match limit with | some n => decide (n ≤ bump x.spaceCount) | none => false } := by
  unfold PortState.atBoundary
  split
  · next mark => rw [h] at mark; cases mark
  · rfl

theorem boundaryPort_eq (s : State) (p : Port) : s.boundaryPort p = s.setPort p ((s.port p).atBoundary (s.spaceLimit p)) := by
  unfold State.boundaryPort
  split
  · next mark => rw [atBoundary_mark mark, State.setPort_same]
  · next space =>
    rw [atBoundary_space space]
    rfl

theorem atBoundary_own (s : State) (q : Port) (x : PortState) (p : Port) (h : p ≠ q) :
    ((s.setPort q x).port p).atBoundary ((s.setPort q x).spaceLimit p) = (s.port p).atBoundary (s.spaceLimit p) := by
  have port := State.setPort_port_other s x h
  unfold State.spaceLimit
  rw [port]
  cases p <;> rfl

theorem spaceLimit_trunk (s : State) :
    s.spaceLimit .trunk = if s.trunk.breakState = .armed then some s.agent.settings.breakLength else none := rfl

theorem spaceLimit_branch (s : State) {p : Port} (h : p ≠ .trunk) :
    s.spaceLimit p = if (s.port p).admin = .active then some (s.port p).format.stuckLimit else none := by
  cases p with
  | trunk => exact absurd rfl h
  | b1 | b2 | b3 | b4 => rfl

/-! ### One tick -/

section
variable (s : State)

/-- The state at the boundary, before the ports meet it. -/
def State.boundaryStart (s : State) : State :=
  (s.ticking.withTrunk { s.trunk with breakState := s.tickBreak }).withTable
    { s.exchanges with tickCount := 0, records := s.exchanges.records.map ExchangeRecord.millisecond }

theorem tick_before (h : s.exchanges.tickCount + 1 < s.agent.settings.divisor) :
    s.tick = (s.ticking.withTrunk { s.trunk with breakState := s.tickBreak }).withTable
      { s.exchanges with tickCount := s.exchanges.tickCount + 1 } := by
  obtain ⟨-, exchanges, agent⟩ := ticking_blocks s
  change s.ticking.rearmBreak.tickBase = _
  rw [rearmBreak_ticking]
  rw [← exchanges, ← agent] at h
  refine (if_pos h).trans ?_
  rw [← exchanges]

theorem tick_boundary (h : s.agent.settings.divisor ≤ s.exchanges.tickCount + 1) :
    s.tick = Port.all.foldl State.boundaryPort s.boundaryStart := by
  obtain ⟨-, exchanges, agent⟩ := ticking_blocks s
  change s.ticking.rearmBreak.tickBase = _
  rw [rearmBreak_ticking]
  rw [← exchanges, ← agent] at h
  refine (if_neg (Nat.not_lt.mpr h)).trans ?_
  unfold State.boundaryStart
  rw [← exchanges]

/-- What a tick leaves of the blocks that are no port and no exchange table. -/
theorem tick_blocks : s.tick.trunk = { s.trunk with breakState := s.tickBreak } ∧ s.tick.pool = s.pool
    ∧ s.tick.notices = s.notices ∧ s.tick.routes = s.routes ∧ s.tick.agent = s.agent ∧ s.tick.straps = s.straps := by
  have same := ticking_eq s
  obtain h | h := Nat.lt_or_ge (s.exchanges.tickCount + 1) s.agent.settings.divisor
  · rw [tick_before s h, same]
    exact ⟨rfl, rfl, rfl, rfl, rfl, rfl⟩
  · rw [tick_boundary s h, (foldl_perPort boundaryPort_eq atBoundary_own Port.all_nodup s.boundaryStart).2.2]
    unfold State.boundaryStart
    rw [same]
    exact ⟨rfl, rfl, rfl, rfl, rfl, rfl⟩

theorem tick_exchanges_boundary (h : s.agent.settings.divisor ≤ s.exchanges.tickCount + 1) : s.tick.exchanges =
    { s.exchanges with tickCount := 0, records := s.exchanges.records.map ExchangeRecord.millisecond } := by
  rw [tick_boundary s h, (foldl_perPort boundaryPort_eq atBoundary_own Port.all_nodup s.boundaryStart).2.2]
  rfl

variable (p : Port)

theorem tick_port_before (h : s.exchanges.tickCount + 1 < s.agent.settings.divisor) : s.tick.port p = s.ticked p := by
  rw [tick_before s h]
  exact ticking_port s p

theorem tick_port_boundary (h : s.agent.settings.divisor ≤ s.exchanges.tickCount + 1) :
    s.tick.port p = (s.ticked p).atBoundary (s.boundaryStart.spaceLimit p) := by
  rw [tick_boundary s h,
    (foldl_perPort boundaryPort_eq atBoundary_own Port.all_nodup s.boundaryStart).1 p (Port.mem_all p)]
  exact congrArg (PortState.atBoundary · _) (ticking_port s p)

theorem atBoundary_eq (x : PortState) (limit : Option Nat) : x.atBoundary limit =
    { x with spaceCount := (x.atBoundary limit).spaceCount, limitReached := (x.atBoundary limit).limitReached } := by
  unfold PortState.atBoundary
  split <;> rfl

/-- What any tick does to a port, but for its space count and the flag of its limit. -/
theorem tick_port : s.tick.port p = { s.ticked p with
    spaceCount := (s.tick.port p).spaceCount, limitReached := (s.tick.port p).limitReached } := by
  obtain h | h := Nat.lt_or_ge (s.exchanges.tickCount + 1) s.agent.settings.divisor
  · rw [tick_port_before s p h]
  · rw [tick_port_boundary s p h]
    exact atBoundary_eq _ _

end

/-! ### The event due first -/

theorem findSome_first {g : Port → Option Instr} {p : Port} {v : Instr} (first : ∀ q, q.number < p.number → g q = none)
    (here : g p = some v) : Port.all.findSome? g = some v := by
  have before : ∀ q, q.number < p.number → g q = none := first
  cases p with
  | trunk => simp [Port.all, here]
  | b1 => simp [Port.all, here, before .trunk (by decide)]
  | b2 => simp [Port.all, here, before .trunk (by decide), before .b1 (by decide)]
  | b3 => simp [Port.all, here, before .trunk (by decide), before .b1 (by decide), before .b2 (by decide)]
  | b4 =>
    simp [Port.all, here, before .trunk (by decide), before .b1 (by decide), before .b2 (by decide), before .b3 (by decide)]

theorem due_character {s : State} {p : Port} {c : Instr}
    (first : ∀ q, q.number < p.number → (s.port q).dueCharacter q = none) (here : (s.port p).dueCharacter p = some c) :
    s.due = some c := by
  unfold State.due
  rw [findSome_first first here]
  rfl

theorem firstStop_pos (f : FormatRecord) : f.firstStop ≠ 0 := by
  unfold FormatRecord.firstStop
  omega

theorem entry_eq {f : FormatRecord} {bit e : Nat} (h : f.pattern[bit % f.pattern.length]? = some e) : f.entry bit = e := by
  unfold FormatRecord.entry
  rw [List.getD_eq_getElem?_getD, h]
  rfl

theorem step_idle {s : State} (h : s.pending = []) :
    (s.due = none → step s = .next s.tick) ∧ ∀ c, s.due = some c → step s = exec c s := by
  unfold step
  rw [h]
  dsimp only
  unfold State.idle
  refine ⟨fun none => ?_, fun c due => ?_⟩
  · rw [none]
  · rw [due]

section
variable (s : State) (p : Port)

/-- What no tick changes of a port. -/
theorem tick_port_kept : s.tick.scheduler p = s.scheduler p ∧ (s.tick.port p).receiver = (s.port p).receiver
    ∧ (s.tick.port p).rxPin = (s.port p).rxPin ∧ (s.tick.port p).monitor = (s.port p).monitor
    ∧ (s.tick.port p).completions = (s.port p).completions ∧ (s.tick.port p).counters = (s.port p).counters
    ∧ (s.tick.port p).format = (s.port p).format ∧ (s.tick.port p).admin = (s.port p).admin := by
  rw [State.scheduler_def, tick_port, ticked_eq]
  exact ⟨rfl, rfl, rfl, rfl, rfl, rfl, rfl, rfl⟩

/-- The line, the character receiver and the transmitter after a tick. -/
theorem tick_port_moved : (s.tick.port p).markSpan = (s.port p).tickSpans.markSpan
    ∧ (s.tick.port p).charTail = (s.port p).tickSpans.charTail ∧ (s.tick.port p).spaceSpan = (s.port p).tickSpans.spaceSpan
    ∧ (s.tick.port p).charReceiver = (s.port p).charReceiver.tick (s.port p).rxPin
    ∧ (s.tick.port p).transmitter = (s.port p).transmitter.tick (s.port p).receiver.compared (s.nextSent p) := by
  rw [tick_port, ticked_eq]
  exact ⟨rfl, rfl, rfl, rfl, rfl⟩

theorem tick_spaceCount_before (h : s.exchanges.tickCount + 1 < s.agent.settings.divisor) :
    (s.tick.port p).spaceCount = (s.port p).spaceCount := by
  rw [tick_port_before s p h, ticked_eq]

theorem tick_spaceCount_boundary (h : s.agent.settings.divisor ≤ s.exchanges.tickCount + 1)
    (bounded : (s.port p).spaceCount ≤ 65535) : (s.tick.port p).spaceCount =
      if (s.port p).rxPin = .space then min 65535 ((s.port p).spaceCount + 1) else (s.port p).spaceCount := by
  have pin : (s.ticked p).rxPin = (s.port p).rxPin := by rw [ticked_eq]
  have count : (s.ticked p).spaceCount = (s.port p).spaceCount := by rw [ticked_eq]
  rw [tick_port_boundary s p h]
  cases level : (s.port p).rxPin with
  | mark =>
    rw [atBoundary_mark (pin.trans level), if_neg (by decide)]
    exact count
  | space =>
    rw [atBoundary_space (pin.trans level), if_pos rfl, ← bump_eq_min bounded, ← count]

/-- At a boundary that finds space, the flag says whether the new count has met the limit. -/
theorem tick_limit (h : s.agent.settings.divisor ≤ s.exchanges.tickCount + 1) (space : (s.port p).rxPin = .space) {n : Nat}
    (limit : s.boundaryStart.spaceLimit p = some n) :
    (s.tick.port p).limitReached = decide (n ≤ (s.tick.port p).spaceCount) := by
  have pin : (s.ticked p).rxPin = .space := by rw [ticked_eq]; exact space
  rw [tick_port_boundary s p h, atBoundary_space pin, limit]

theorem boundaryStart_spaceLimit_trunk (space : (s.port .trunk).rxPin = .space) (armed : s.trunk.breakState = .armed) :
    s.boundaryStart.spaceLimit .trunk = some s.agent.settings.breakLength := by
  obtain ⟨-, -, agent⟩ := ticking_blocks s
  rw [spaceLimit_trunk]
  change (if s.tickBreak = .armed then some s.ticking.agent.settings.breakLength else none) = _
  have still : s.tickBreak = s.trunk.breakState := if_neg (by rw [space]; decide)
  rw [still, if_pos armed, agent]

theorem boundaryStart_spaceLimit_branch {p : Port} (branch : p ≠ .trunk) (up : (s.port p).admin = .active) :
    s.boundaryStart.spaceLimit p = some (s.port p).format.stuckLimit := by
  have port : s.boundaryStart.port p = s.ticked p := ticking_port s p
  rw [spaceLimit_branch _ branch, port, ticked_eq]
  exact if_pos up

variable {s} {p}

theorem tickSpans_quiet {x : PortState} (quiet : x.quiet = true) :
    x.tickSpans = if x.charTail = 0 then { x with markSpan := x.markSpan + 1 } else { x with charTail := x.charTail - 1 } :=
  if_pos quiet

theorem tickSpans_space {x : PortState} (space : x.rxPin = .space) :
    x.tickSpans = { x with spaceSpan := x.spaceSpan + 1 } := by
  have loud : ¬ x.quiet = true := by
    unfold PortState.quiet
    rw [space]
    simp
  unfold PortState.tickSpans
  rw [if_neg loud]
  split
  · rfl
  · next mark => rw [space] at mark; cases mark

theorem millisecond_eq : ExchangeRecord.millisecond = fun r =>
    if r.state = .awaiting ∨ r.state = .lapsed ∧ r.lateHold = false then { r with remaining := r.remaining - 1 } else r := by
  funext r
  unfold ExchangeRecord.millisecond
  cases state : r.state with
  | sending => simp
  | answering => simp
  | awaiting => simp
  | lapsed => cases hold : r.lateHold <;> simp

/-! ### A character received -/

theorem tick_inCharacter {f : FormatRecord} {bit k e : Nat} {ls : List Level}
    (receiving : (s.port p).charReceiver = .inCharacter f bit k ls) (entry : f.pattern[bit % f.pattern.length]? = some e) :
    (s.tick.port p).charReceiver = .inCharacter f (if k + 1 < e then bit else bit + 1) (if k + 1 < e then k + 1 else 0)
      (if k = e / 2 then ls ++ [(s.port p).rxPin] else ls) := by
  obtain ⟨-, -, -, moved, -⟩ := tick_port_moved s p
  rw [moved, receiving]
  unfold CharReceiver.tick FormatRecord.samplePoint
  dsimp only
  rw [entry_eq entry]
  by_cases more : k + 1 < e
  · rw [if_neg (Nat.not_le.mpr more), if_pos more, if_pos more]
  · rw [if_pos (Nat.not_lt.mp more), if_neg more, if_neg more]

/-- At its sampling point a start bit may be a false start, and a first stop bit ends the character. -/
theorem dueCharacter_sampled {x : PortState} {f : FormatRecord} {bit k e : Nat} {ls : List Level}
    (receiving : x.charReceiver = .inCharacter f bit k ls) (entry : f.pattern[bit % f.pattern.length]? = some e)
    (sample : k = e / 2) :
    (bit = 0 → x.rxPin = .mark → x.dueCharacter p = some (.falseStart p))
      ∧ (bit = f.firstStop → x.dueCharacter p = some (.characterReport p (f.report (ls ++ [x.rxPin])).value
          (f.report (ls ++ [x.rxPin])).marker (f.report (ls ++ [x.rxPin])).parityBit (f.report (ls ++ [x.rxPin])).error)) := by
  have point : k = f.samplePoint bit := by
    rw [sample, FormatRecord.samplePoint, entry_eq entry]
  unfold PortState.dueCharacter
  rw [receiving]
  dsimp only
  rw [if_pos point]
  refine ⟨fun start mark => if_pos ⟨start, mark⟩, fun stop => ?_⟩
  rw [if_neg (fun k => firstStop_pos f (stop.symm.trans k.1)), if_pos stop]

theorem dueCharacter_waiting {x : PortState} (h : x.charReceiver = .awaitMark ∨ x.charReceiver = .awaitStart) :
    x.dueCharacter p = none := by
  unfold PortState.dueCharacter
  obtain h | h := h
  · rw [h]
  · rw [h]

/-! ### A character sent -/

section
variable {f : FormatRecord} {i bit k e : Nat} {ls : List Level} {cut : Bool} {n : Nat} {next : Nat → Option Chr}

theorem transmitter_within (inside : bit < ls.length) (entry : f.pattern[bit % f.pattern.length]? = some e)
    (more : k + 1 < e) :
    (Transmitter.sending f i ls bit k cut).tick n next = .sending f i ls bit (k + 1) cut := by
  unfold Transmitter.tick
  dsimp only
  rw [entry_eq entry, if_neg (Nat.not_le.mpr inside), if_pos more]

theorem transmitter_nextBit (inside : bit + 1 < ls.length) (entry : f.pattern[bit % f.pattern.length]? = some e)
    (ended : e ≤ k + 1) :
    (Transmitter.sending f i ls bit k cut).tick n next = .sending f i ls (bit + 1) 0 cut := by
  unfold Transmitter.tick
  dsimp only
  rw [entry_eq entry, if_neg (by omega), if_neg (Nat.not_lt.mpr ended), if_pos inside]

/-- After the last bit the next character begins where the telegram goes on and its echo has compared good. -/
theorem transmitter_ended (last : bit + 1 = ls.length) (entry : f.pattern[bit % f.pattern.length]? = some e)
    (ended : e ≤ k + 1) :
    (cut = true → (Transmitter.sending f i ls bit k cut).tick n next = .sending f i ls (bit + 1) 0 true)
      ∧ (cut = false → ∀ c, i < n → next (i + 1) = some c →
          (Transmitter.sending f i ls bit k cut).tick n next = .sending f (i + 1) (f.levels c false) 0 0 false)
      ∧ (cut = false → n ≤ i ∨ next (i + 1) = none →
          (Transmitter.sending f i ls bit k cut).tick n next = .sending f i ls (bit + 1) 0 false) := by
  unfold Transmitter.tick
  dsimp only
  rw [entry_eq entry, if_neg (by omega), if_neg (Nat.not_lt.mpr ended), if_neg (by omega)]
  refine ⟨?_, ?_, ?_⟩
  · rintro rfl
    rfl
  · rintro rfl c ahead follows
    rw [decide_eq_true ahead, follows]
  · rintro rfl (behind | none)
    · rw [decide_eq_false (Nat.not_lt.mpr behind)]
    · rw [none]
      cases decide (i < n) <;> rfl

end

theorem nextSent_eq {x : QueueEntry} {rest : List QueueEntry} (phase : (s.scheduler p).phase = .onLine)
    (queue : (s.scheduler p).queue = x :: rest) (i : Nat) :
    s.nextSent p (i + 1)
      = if i + 1 < (s.pool.descriptor x.desc).length then some (s.pool.charAt x.desc (i + 1)) else none := by
  unfold State.nextSent
  rw [phase, queue]
  rfl

end

/-- Settles O54: the idle step, the tick block by block, and the characters received and sent. -/
theorem tickKeepsTime : Obligations.TickKeepsTime := by
  refine ⟨fun s => step_idle, fun s => ⟨fun before => ⟨?_, fun p => tick_spaceCount_before s p before⟩,
      fun boundary => ⟨?_, ?_, fun p => tick_spaceCount_boundary s p boundary⟩, fun p boundary space => ⟨?_, ?_⟩,
      fun p quiet none => ?_, fun p quiet some => ?_, fun p space => ?_, ?_⟩,
    fun s p f bit k e ls receiving entry => ⟨tick_inCharacter receiving entry, fun sample place first => ⟨fun start mark => ?_,
      fun stop => ?_⟩⟩,
    fun s p => ⟨fun waiting => ?_, fun waiting => ?_⟩,
    fun s p f i bit k e ls cut sending inside entry => ⟨?_, fun more => ?_, fun ended more => ?_, fun ended last => ?_⟩,
    fun s p rest => ⟨?_, ?_⟩⟩
  · rw [tick_before s before]
  · rw [tick_exchanges_boundary s boundary]
  · rw [tick_exchanges_boundary s boundary, millisecond_eq]
  · rintro rfl armed
    exact tick_limit s .trunk boundary space (boundaryStart_spaceLimit_trunk s space armed)
  · exact fun branch up => tick_limit s p boundary space (boundaryStart_spaceLimit_branch s branch up)
  · obtain ⟨span, -⟩ := tick_port_moved s p
    rw [span, tickSpans_quiet quiet, if_pos none]
  · obtain ⟨span, tail, -⟩ := tick_port_moved s p
    rw [span, tail, tickSpans_quiet quiet, if_neg some]
    exact ⟨rfl, rfl⟩
  · obtain ⟨span, -, spaceSpan, -⟩ := tick_port_moved s p
    rw [span, spaceSpan, tickSpans_space space]
    exact ⟨rfl, rfl⟩
  · obtain ⟨trunk, pool, notices, routes, agent, straps⟩ := tick_blocks s
    exact ⟨trunk, pool, notices, routes, agent, straps, tick_port_kept s⟩
  · exact due_character (fun q low => dueCharacter_waiting (first q low))
      ((dueCharacter_sampled receiving entry sample).1 start mark)
  · exact ⟨_, _, _, _, due_character (fun q low => dueCharacter_waiting (first q low))
      ((dueCharacter_sampled receiving entry sample).2 stop), rfl⟩
  · obtain ⟨-, -, -, moved, -⟩ := tick_port_moved s p
    rw [moved, waiting]
    rfl
  · obtain ⟨-, -, -, moved, -⟩ := tick_port_moved s p
    rw [moved, waiting]
    cases (s.port p).rxPin <;> rfl
  · unfold PortState.txPin
    rw [sending]
  · obtain ⟨-, -, -, -, moved⟩ := tick_port_moved s p
    rw [moved, sending]
    exact transmitter_within inside entry more
  · obtain ⟨-, -, -, -, moved⟩ := tick_port_moved s p
    rw [moved, sending]
    exact transmitter_nextBit more entry ended
  · obtain ⟨-, -, -, -, moved⟩ := tick_port_moved s p
    rw [moved, sending]
    obtain ⟨whenCut, goesOn, ends⟩ := transmitter_ended (f := f) (i := i) (k := k) (ls := ls) (cut := cut)
      (n := (s.port p).receiver.compared) (next := s.nextSent p) last entry ended
    refine ⟨whenCut, fun x rest n uncut phase queue receiver => ?_⟩
    have compared : (s.port p).receiver.compared = n := by rw [receiver]; rfl
    have next := nextSent_eq phase queue i
    rw [compared] at goesOn ends ⊢
    refine ⟨fun ahead more => goesOn uncut _ ahead (next.trans (if_pos more)), fun stays => ends uncut ?_⟩
    exact stays.imp_right fun past => next.trans (if_neg (Nat.not_lt.mpr past))
  · obtain ⟨-, -, -, -, moved⟩ := tick_port_moved s p
    rw [moved, rest]
    rfl
  · unfold PortState.txPin
    rw [rest]

end Sys2Proof.Machine
end

section
/-! PROOFS. The head of a queue: decided and started at a release of the line (R97 to R100, R128), and leaving with its
attempt completed (R103). -/

namespace Sys2Proof.Machine

/-! ### The start of an attempt (R100) -/

/-- The completion of the telegram open on a receiver, as a list: one, or none. -/
def raisedBy (q : Pool) (r : Receiver) : List Completion := (openCompletion q r).toList

theorem startAttempt_eq {s : State} {p : Port} {e : QueueEntry} {rest : List QueueEntry}
    (queue : (s.scheduler p).queue = e :: rest) : s.startAttempt p = s.setPort p { (s.port p).started e.line with
      completions := (s.port p).completions ++ raisedBy s.pool (s.port p).receiver } := by
  cases closed : openCompletion s.pool (s.port p).receiver with
  | none =>
    rw [startAttempt_idle queue closed]
    unfold raisedBy
    rw [closed, Option.toList_none, List.append_nil]
    rfl
  | some c =>
    unfold State.startAttempt State.closeTelegram raisedBy
    rw [queue, closed]
    dsimp only
    unfold State.onPort
    rw [State.setPort_port, State.setPort_setPort]
    rfl

/-! ### The hold conditions (Table 5-4) -/

theorem ExchangeMonitor.openCount_eq (m : ExchangeMonitor) (p : Port) :
    m.openCount p = (m.records.filter fun r => decide (r.target = p ∧ r.state ≠ .lapsed)).length := by
  unfold ExchangeMonitor.openCount ExchangeRecord.isOpen
  simp only [Bool.decide_and]

theorem isOpen_iff (r : ExchangeRecord) : r.isOpen = true ↔ r.state ≠ .lapsed := by
  unfold ExchangeRecord.isOpen
  rw [decide_eq_true_eq]

theorem held_iff (s : State) (p : Port) (e : QueueEntry) : s.held p e = true ↔
    (s.port p).admin ≠ .active
    ∨ (s.port p).format.overlap
        ≤ (s.exchanges.records.filter fun r => decide (r.target = p ∧ r.state ≠ .lapsed)).length
    ∨ e.request ≠ none ∧ 16 ≤ s.exchanges.records.length ∧ (∀ r ∈ s.exchanges.records, r.state ≠ .lapsed)
    ∨ e.request ≠ none ∧ ∃ r ∈ s.exchanges.records, r.target = p ∧ r.line = e.line ∧ r.state ≠ .lapsed := by
  unfold State.held
  rw [← ExchangeMonitor.openCount_eq]
  simp only [Bool.or_eq_true, Bool.and_eq_true, decide_eq_true_eq, List.all_eq_true, List.any_eq_true, isOpen_iff,
    ExchangeRecord.onPair_iff, Option.isSome_iff_ne_none, and_or_left, or_assoc, and_assoc]

theorem held_shallow {s : State} {p : Port} {e : QueueEntry} (h : s.held p e = false) :
    s.exchanges.openCount p < (s.port p).format.overlap := by
  rw [← Bool.not_eq_true, held_iff, ← ExchangeMonitor.openCount_eq] at h
  by_contra deep
  exact h (.inr (.inl (Nat.not_lt.mp deep)))

/-! ### Deciding a head (R97, R99, R100) -/

section
variable {s : State} {p : Port} {e : QueueEntry} {rest : List QueueEntry}

theorem decideHead_empty (queue : (s.scheduler p).queue = []) :
    s.decideHead p = s.setPort p { s.port p with scheduler := { s.scheduler p with phase := .empty, attempts := 0 } } := by
  unfold State.decideHead
  rw [queue]
  rfl

theorem decideHead_held (queue : (s.scheduler p).queue = e :: rest) (held : s.held p e = true) :
    s.decideHead p = s.setPort p { s.port p with scheduler := { s.scheduler p with phase := .headHeld } } := by
  unfold State.decideHead
  rw [queue]
  exact if_pos held

theorem decideHead_reserved (queue : (s.scheduler p).queue = e :: rest) (held : s.held p e = false)
    (busy : (s.port p).lineFree = false) :
    s.decideHead p = s.setPort p { s.port p with scheduler := { s.scheduler p with phase := .reserved } } := by
  unfold State.decideHead
  rw [queue]
  dsimp only
  rw [held, busy]
  rfl

theorem decideHead_first (queue : (s.scheduler p).queue = e :: rest) (held : s.held p e = false)
    (free : (s.port p).lineFree = true) : s.decideHead p = s.firstAttempt p e := by
  unfold State.decideHead
  rw [queue]
  dsimp only
  rw [held, free]
  rfl

/-- A plain head starts without an opening. -/
theorem decideHead_plain (queue : (s.scheduler p).queue = e :: rest) (held : s.held p e = false)
    (free : (s.port p).lineFree = true) (plain : e.request = none) :
    s.decideHead p = s.setPort p { (s.port p).started e.line with
      completions := (s.port p).completions ++ raisedBy s.pool (s.port p).receiver } := by
  rw [decideHead_first queue held free, ← startAttempt_eq queue]
  unfold State.firstAttempt
  rw [plain]

/-- A head with a request starts once its opening is taken. -/
theorem decideHead_opens {q : ExchangeRequest} {m : ExchangeMonitor} (queue : (s.scheduler p).queue = e :: rest)
    (held : s.held p e = false) (free : (s.port p).lineFree = true) (asks : e.request = some q)
    (opening : s.exchanges.opening (s.port p).format.overlap p e q = some m) :
    s.decideHead p = (s.withTable m).setPort p { (s.port p).started e.line with
      completions := (s.port p).completions ++ raisedBy s.pool (s.port p).receiver } := by
  rw [decideHead_first queue held free]
  unfold State.firstAttempt
  rw [asks]
  dsimp only
  rw [opening]
  exact startAttempt_eq (s := s.withTable m) queue

end

/-- With room in the table and no record on the pair the opening only adds its record. -/
theorem opening_room {m : ExchangeMonitor} {depth : Nat} {p : Port} {e : QueueEntry} {q : ExchangeRequest}
    (shallow : m.openCount p < depth) (room : m.records.length < 16) (none : m.find p e.line = none) :
    m.opening depth p e q = some (m.append (m.opened p e q)) := by
  have off : ∀ r ∈ m.records, ¬ r.onPair p e.line = true := List.find?_eq_none.mp none
  have removed : m.removePair p e.line = m := by
    unfold ExchangeMonitor.removePair
    rw [List.filter_eq_self.mpr fun r hr => by rw [Bool.eq_false_iff.mpr (off r hr)]; rfl]
  rw [opening_eq (fun r hr on => absurd on (off r hr)) shallow, removed]
  exact if_pos room

/-! ### LINE_RELEASE -/

theorem PortState.quiet_driver {x : PortState} (h : x.quiet = true) : x.driverEnable = false := by
  unfold PortState.quiet at h
  rw [Bool.and_eq_true, Bool.and_eq_true, Bool.not_eq_true'] at h
  exact h.1.2

/-- The port as a release leaves it, before its scheduler acts on it (R128). -/
def PortState.released (x : PortState) : PortState :=
  { x.spanReached (x.format.span x.format.guardGap) with monitor := .released }

/-- The state of a release whose head has still to be decided. -/
def State.releasedAt (s : State) (p : Port) : State := s.setPort p (s.port p).released

/-- What a release leaves: a RESERVED head is decided, any other scheduler lets it pass. -/
def State.releaseLine (s : State) (p : Port) : State :=
  if (s.scheduler p).phase = .reserved then (s.releasedAt p).decideHead p else s.releasedAt p

theorem exec_lineRelease {s : State} {p : Port} (busy : (s.port p).monitor = .busy) (quiet : (s.port p).quiet = true) :
    exec (.lineRelease p) s = .next (s.releaseLine p) := by
  change execLineRelease p s = _
  unfold execLineRelease
  dsimp only
  rw [if_pos ⟨busy, quiet⟩]
  rfl

theorem raisedBy_of_open {q : Pool} {r : Receiver} {k : Completion}
    (h : (∃ o b, r = .inTelegram o b
        ∧ k = ⟨(q.descriptor o).address, some o, (q.descriptor o).length, (q.descriptor o).wide, (q.descriptor o).damage⟩)
      ∨ ∃ a n, r = .discarding a n ∧ k = ⟨a, none, n, false, none⟩) : raisedBy q r = [k] := by
  rcases h with ⟨o, b, rfl, rfl⟩ | ⟨a, n, rfl, rfl⟩
  · rfl
  · rfl

theorem raisedBy_of_waiting {q : Pool} {r : Receiver} (h : r = .idle ∨ r = .settling) : raisedBy q r = [] := by
  rcases h with rfl | rfl
  · rfl
  · rfl

section
variable {s : State} {p : Port}

theorem releaseLine_reserved (h : (s.scheduler p).phase = .reserved) :
    s.releaseLine p = (s.releasedAt p).decideHead p := if_pos h

theorem releaseLine_passes (h : (s.scheduler p).phase ≠ .reserved) : s.releaseLine p = s.releasedAt p := if_neg h

theorem releasedAt_port : (s.releasedAt p).port p = (s.port p).released := State.setPort_port _ _ _

theorem releasedAt_scheduler : (s.releasedAt p).scheduler p = s.scheduler p := by
  rw [State.scheduler_def, releasedAt_port]
  rfl

theorem releasedAt_held (e : QueueEntry) : (s.releasedAt p).held p e = s.held p e := by
  unfold State.held
  rw [releasedAt_port]
  rfl

theorem releasedAt_free (quiet : (s.port p).quiet = true) : ((s.releasedAt p).port p).lineFree = true := by
  rw [PortState.lineFree_iff, releasedAt_port]
  exact ⟨rfl, PortState.quiet_driver quiet⟩

/-- What a decision leaves of the port's own span, where it sets that port alone. -/
theorem releasedAt_setPort {t : State} {y : PortState} (h : t = (s.releasedAt p).setPort p y) :
    t = s.setPort p y ∧ (t.port p).markSpan = y.markSpan := by
  subst h
  exact ⟨State.setPort_setPort _ _ _ _, congrArg PortState.markSpan (State.setPort_port _ _ _)⟩

/-- A RESERVED head as the release starts it, where no opening is needed. -/
theorem releasedAt_plain {e : QueueEntry} {rest : List QueueEntry} {ks : List Completion} (quiet : (s.port p).quiet = true)
    (queue : (s.scheduler p).queue = e :: rest) (held : s.held p e = false) (plain : e.request = none)
    (raised : raisedBy s.pool (s.port p).receiver = ks) :
    (s.releasedAt p).decideHead p = (s.releasedAt p).setPort p
      { ((s.port p).released).started e.line with completions := (s.port p).completions ++ ks } := by
  rw [decideHead_plain (releasedAt_scheduler ▸ queue) ((releasedAt_held e).trans held) (releasedAt_free quiet) plain,
    releasedAt_port, ← raised]
  rfl

theorem releaseLine_line : LineKept (s.port p).released ((s.releaseLine p).port p) := by
  unfold State.releaseLine
  split
  · exact releasedAt_port ▸ (decideHead_attemptOnly (s.releasedAt p) p).line
  · rw [releasedAt_port]
    exact LineKept.refl _

/-- A RESERVED head with a request as the release starts it, its record opened. -/
theorem releasedAt_opens {e : QueueEntry} {rest : List QueueEntry} {q : ExchangeRequest} (quiet : (s.port p).quiet = true)
    (queue : (s.scheduler p).queue = e :: rest) (held : s.held p e = false) (asks : e.request = some q)
    (room : s.exchanges.records.length < 16) (off : s.exchanges.find p e.line = none) :
    (s.releasedAt p).decideHead p
      = ((s.releasedAt p).withTable (s.exchanges.append (s.exchanges.opened p e q))).setPort p
        { ((s.port p).released).started e.line with
          completions := (s.port p).completions ++ raisedBy s.pool (s.port p).receiver } := by
  have opening := opening_room (held_shallow held) room off (q := q)
  rw [decideHead_opens (releasedAt_scheduler ▸ queue) ((releasedAt_held e).trans held) (releasedAt_free quiet) asks
    (by rw [releasedAt_port]; exact opening), releasedAt_port]
  rfl

end

/-- Settles O13: the release, and the RESERVED head's decision by what holds it and what it asks. -/
theorem lineReleaseStartsReservedHead : Obligations.LineReleaseStartsReservedHead := by
  refine ⟨fun p s e => held_iff s p e, fun p s busy quiet => ⟨_, exec_lineRelease busy quiet,
    congrArg PortState.monitor releaseLine_line,
    (Nat.le_max_right _ _).trans_eq (congrArg PortState.markSpan releaseLine_line).symm, ?_, ?_, ?_, ?_, ?_⟩⟩
  · intro other
    rw [releaseLine_passes other, releasedAt_port]
    rfl
  · intro e rest phase queue held
    rw [releaseLine_reserved phase]
    have decided := decideHead_held (releasedAt_scheduler ▸ queue) ((releasedAt_held e).trans held)
    rw [releasedAt_port, releasedAt_scheduler] at decided
    obtain ⟨eq, span⟩ := releasedAt_setPort decided
    rw [span]
    exact eq
  · intro e rest phase queue held plain waiting
    rw [releaseLine_reserved phase]
    obtain ⟨eq, span⟩ := releasedAt_setPort (releasedAt_plain quiet queue held plain (raisedBy_of_waiting waiting))
    rw [span]
    exact eq.trans (by rw [List.append_nil]; rfl)
  · intro e rest q phase queue held asks room off
    have attempt := decideHead_attemptOnly (s.releasedAt p) p
    rw [releaseLine_reserved phase]
    have others : OtherPortsKept p s ((s.releasedAt p).decideHead p) := fun r away =>
      (attempt.others r away).trans (State.setPort_port_other _ _ away)
    refine ⟨?_, ?_, ?_, ?_, others, attempt.pool, attempt.blocks⟩
    · rw [releasedAt_opens quiet queue held asks room off]
      rfl
    · rw [releasedAt_opens quiet queue held asks room off, State.scheduler_def, State.setPort_port]
      rfl
    · rw [releasedAt_opens quiet queue held asks room off, State.setPort_port]
      rfl
    · rw [attempt.queue, releasedAt_scheduler, queue]
  · intro e rest k phase queue held plain opened
    rw [releaseLine_reserved phase]
    obtain ⟨eq, span⟩ := releasedAt_setPort (releasedAt_plain quiet queue held plain (raisedBy_of_open opened))
    rw [span]
    exact eq

/-! ### A head decided on a line that is not free (R97, R147) -/

/-- What a decision leaves where no attempt can start: the scheduler's phase, and its attempts where it is EMPTY. -/
structure HeadWaits (p : Port) (t u : State) : Prop where
  port : u = t.setPort p { t.port p with scheduler := u.scheduler p }
  queue : (u.scheduler p).queue = (t.scheduler p).queue
  attempts : (t.scheduler p).attempts = 0 → (u.scheduler p).attempts = 0
  abandons : (u.scheduler p).abandons = (t.scheduler p).abandons
  backoffGap : (u.scheduler p).backoffGap = (t.scheduler p).backoffGap
  empty : (t.scheduler p).queue = [] → (u.scheduler p).phase = .empty
  waits : (t.scheduler p).queue ≠ [] → (u.scheduler p).phase = .reserved ∨ (u.scheduler p).phase = .headHeld

theorem setPort_scheduler (s : State) (p : Port) (c : Scheduler) :
    (s.setPort p { s.port p with scheduler := c }).scheduler p = c := by
  rw [State.scheduler_def, State.setPort_port]

theorem decideHead_busy {t : State} {p : Port} (busy : (t.port p).lineFree = false) : HeadWaits p t (t.decideHead p) := by
  cases queue : (t.scheduler p).queue with
  | nil =>
    rw [decideHead_empty queue]
    constructor
    all_goals rw [setPort_scheduler]
    all_goals simp [queue]
  | cons e rest =>
    cases held : t.held p e with
    | true =>
      rw [decideHead_held queue held]
      constructor
      all_goals rw [setPort_scheduler]
      all_goals simp [queue]
    | false =>
      rw [decideHead_reserved queue held busy]
      constructor
      all_goals rw [setPort_scheduler]
      all_goals simp [queue]

theorem PortState.lineFree_seen {x : PortState} (h : x.monitor ≠ .released) : x.lineFree = false :=
  Bool.eq_false_iff.mpr fun free => h ((PortState.lineFree_iff x).mp free).1

/-! ### ATTEMPT_COMPLETION -/

/-- The port of a head whose attempt has completed, its next head not yet decided. -/
def PortState.sent (x : PortState) : PortState :=
  { x.characterEnded 0 with
    transmitter := .rest
    receiver := .idle
    counters := x.counters.addTxTelegram
    scheduler := { x.scheduler with queue := x.scheduler.queue.tail, phase := .empty, attempts := 0, backoffGap := 0, abandons := 0 } }

/-- The table after a head has left its attempt. -/
def ExchangeMonitor.afterSent (m : ExchangeMonitor) (p : Port) (d : DescNo) : ExchangeMonitor :=
  match m.sendingRecord p d with
  | some r => m.change p r.line ExchangeRecord.sent
  | none => m

/-- The state after a completed attempt, before a reply's leaving is acted on. -/
def State.attemptSent (s : State) (p : Port) (e : QueueEntry) : State :=
  ((s.withPool (s.pool.dropRef e.desc)).withTable (s.exchanges.afterSent p e.desc)).setPort p (s.port p).sent

/-- The port and the pool of a completed attempt, its record still SENDING. -/
theorem popHead_sent (s : State) (p : Port) (e : QueueEntry) :
    ((((s.onPort p fun x => { x.characterEnded 0 with transmitter := .rest, receiver := .idle }).popHead p e).count p
      Counters.addTxTelegram).onScheduler p fun c => { c with abandons := 0 })
        = (s.withPool (s.pool.dropRef e.desc)).setPort p (s.port p).sent := by
  have pool : ∀ (f : PortState → PortState) (q : Pool), ({ s.onPort p f with pool := q } : State) = (s.withPool q).onPort p f :=
    fun _ _ => rfl
  unfold State.popHead State.count State.onScheduler
  rw [pool, State.onPort_onPort, State.onPort_onPort, State.onPort_onPort]
  rfl

theorem afterSent_some {m : ExchangeMonitor} {p : Port} {d : DescNo} {r : ExchangeRecord}
    (h : m.sendingRecord p d = some r) : m.afterSent p d = m.change p r.line ExchangeRecord.sent := by
  unfold ExchangeMonitor.afterSent
  rw [h]

theorem afterSent_none {m : ExchangeMonitor} {p : Port} {d : DescNo} (h : m.sendingRecord p d = none) :
    m.afterSent p d = m := by
  unfold ExchangeMonitor.afterSent
  rw [h]

theorem completeAttempt_eq (s : State) (p : Port) (e : QueueEntry) : s.completeAttempt p e =
    (if e.desc = 0 then (s.attemptSent p e).replyLeft else s.attemptSent p e).decideHead p := by
  unfold State.completeAttempt
  dsimp only
  rw [popHead_sent]
  refine congrArg (fun u : State => (if e.desc = 0 then u.replyLeft else u).decideHead p) ?_
  have table (m : ExchangeMonitor) (h : s.exchanges.afterSent p e.desc = m) : s.attemptSent p e
      = ((s.withPool (s.pool.dropRef e.desc)).withTable m).setPort p (s.port p).sent := by
    subst h
    exact Eq.refl (s.attemptSent p e)
  split
  · next r found => exact (table _ (afterSent_some found)).symm
  · next found => exact (table _ (afterSent_none found)).symm

theorem onLine_of_echo {s : State} {p : Port} {e : QueueEntry} {rest : List QueueEntry} {n : Nat}
    (phase : (s.scheduler p).phase = .onLine) (queue : (s.scheduler p).queue = e :: rest)
    (echo : (s.port p).receiver = .echo n) : s.onLine p = some (e, n) := by
  unfold State.onLine
  rw [phase, queue, echo]

theorem exec_attemptCompletion {s : State} {p : Port} {e : QueueEntry} {rest : List QueueEntry}
    (phase : (s.scheduler p).phase = .onLine) (queue : (s.scheduler p).queue = e :: rest)
    (echo : (s.port p).receiver = .echo (s.pool.descriptor e.desc).length) :
    exec (.attemptCompletion p) s = .next (s.completeAttempt p e) := by
  change execAttemptCompletion p s = _
  unfold execAttemptCompletion
  rw [onLine_of_echo phase queue echo]
  exact if_pos rfl

theorem replyLeft_idle {s : State} (format : s.trunk.pendingFormat = none) (restart : s.agent.restartPending = none) :
    s.replyLeft = s := by
  have installed : s.installPending = s := by
    unfold State.installPending
    rw [format]
  unfold State.replyLeft
  rw [installed]
  dsimp only
  rw [restart]

theorem Pool.dropRef_zero (q : Pool) :
    q.dropRef 0 = q.setDescriptor 0 { q.descriptor 0 with refs := (q.descriptor 0).refs - 1 } := by
  unfold Pool.dropRef
  exact if_neg (fun h => h.2 rfl)

/-- Settles O19: the attempt's end is one change of port, pool and record, and the next head waits for a release. -/
theorem completionStartsDeadline : Obligations.CompletionStartsDeadline := by
  intro p s e rest phase queue echo sound plain bounded
  have left : s.completeAttempt p e = (s.attemptSent p e).decideHead p := by
    rw [completeAttempt_eq]
    split
    · next reply => rw [replyLeft_idle (s := s.attemptSent p e) (plain reply).1 (plain reply).2]
    · rfl
  have port : (s.attemptSent p e).port p = (s.port p).sent := State.setPort_port _ _ _
  have seen : (s.port p).sent.monitor ≠ .released := PortState.characterEnded_seen (s.port p) 0
  have waits : HeadWaits p (s.attemptSent p e) ((s.attemptSent p e).decideHead p) :=
    decideHead_busy (by rw [port]; exact PortState.lineFree_seen seen)
  have attempt := decideHead_attemptOnly (s.attemptSent p e) p
  have scheduler : (s.attemptSent p e).scheduler p = (s.port p).sent.scheduler := congrArg PortState.scheduler port
  have tail : ((s.attemptSent p e).scheduler p).queue = rest := by
    rw [scheduler]
    exact congrArg List.tail queue
  have table : ((s.attemptSent p e).decideHead p).exchanges = s.exchanges.afterSent p e.desc := by
    rw [waits.port]
    rfl
  have now : ((s.attemptSent p e).decideHead p).port p
      = { (s.port p).sent with scheduler := ((s.attemptSent p e).decideHead p).scheduler p } := by
    have := congrArg (fun t => State.port t p) waits.port
    rwa [State.setPort_port, port] at this
  refine ⟨_, (exec_attemptCompletion phase queue echo).trans (congrArg _ left), ?_, ?_, waits.queue.trans tail,
    waits.attempts (by rw [scheduler]; rfl), waits.abandons.trans (by rw [scheduler]; rfl),
    fun none => waits.empty (tail.trans none), fun more => waits.waits (tail ▸ more), attempt.pool,
    (congrArg Pool.cells attempt.pool).trans (Pool.dropRef_cells _ _), fun reply => ?_, fun none => ?_, fun r found => ?_, ?_,
    attempt.blocks⟩
  · rw [now, ← bump_eq_min bounded]
    rfl
  · rw [now]
    exact seen
  · rw [attempt.pool]
    change (s.pool.dropRef e.desc).descriptor 0 = _ ∧ (s.pool.dropRef e.desc).free = _
    rw [reply, Pool.dropRef_zero]
    exact ⟨Pool.setDescriptor_same _ _ _, rfl⟩
  · rw [table, afterSent_none none]
  · rw [table, afterSent_some found]
    obtain ⟨mem, target, -⟩ := ExchangeMonitor.sendingRecord_some found
    subst target
    exact ExchangeMonitor.change_eq sound.2 mem _
  · exact fun q away => (attempt.others q away).trans (State.setPort_port_other _ _ away)

end Sys2Proof.Machine
end

section
/-! PROOFS. END_GAP (R117, R122, R196): the telegram it closes, and the management request it decides in its own step. -/

namespace Sys2Proof.Machine

/-- The receiver after a reached end gap (R117, R122). -/
def Receiver.afterGap : Receiver → Receiver
  | .settling | .inTelegram _ _ | .discarding _ _ => .idle
  | .off => .off
  | .idle => .idle
  | .echo k => .echo k

/-- The port at a reached end gap, its open telegram's completion raised. -/
def PortState.gapReached (x : PortState) (q : Pool) : PortState :=
  { x.spanReached (x.format.span x.format.endGap) with
    receiver := x.receiver.afterGap
    completions := x.completions ++ raisedBy q x.receiver }

theorem reachEndGap_eq (s : State) (p : Port) : s.reachEndGap p = s.setPort p ((s.port p).gapReached s.pool) := by
  have waiting {r : Receiver} (h : (s.port p).receiver = r) (quiet : raisedBy s.pool r = []) : (s.port p).gapReached s.pool
      = { (s.port p).spanReached ((s.port p).format.span (s.port p).format.endGap) with receiver := r.afterGap } := by
    unfold PortState.gapReached
    rw [h, quiet, List.append_nil]
    rfl
  have closes {r : Receiver} {c : Completion} (h : (s.port p).receiver = r) (opened : openCompletion s.pool r = some c)
      (gap : r.afterGap = .idle) :
      (s.onPort p fun x => x.spanReached (x.format.span x.format.endGap)).closeTelegram p
        = s.setPort p ((s.port p).gapReached s.pool) := by
    have now : openCompletion (s.onPort p fun x => x.spanReached (x.format.span x.format.endGap)).pool
        ((s.onPort p fun x => x.spanReached (x.format.span x.format.endGap)).port p).receiver = some c := by
      rw [State.onPort_port]
      exact (congrArg _ h).trans opened
    unfold State.closeTelegram
    rw [now]
    dsimp only
    rw [State.onPort_onPort]
    unfold PortState.gapReached raisedBy
    rw [h, opened, gap]
    rfl
  have stays {r : Receiver} (h : (s.port p).receiver = r) (quiet : raisedBy s.pool r = []) (gap : r.afterGap = r) :
      (s.onPort p fun x => x.spanReached (x.format.span x.format.endGap)) = s.setPort p ((s.port p).gapReached s.pool) := by
    rw [waiting h quiet, gap]
    exact congrArg (fun r => s.setPort p
      { (s.port p).spanReached ((s.port p).format.span (s.port p).format.endGap) with receiver := r }) h
  unfold State.reachEndGap
  dsimp only
  split
  · next h =>
    rw [waiting h rfl, State.onPort_onPort]
    rfl
  · next d b h => exact closes h rfl rfl
  · next a n h => exact closes h rfl rfl
  · next h => exact stays h rfl rfl
  · next h => exact stays h rfl rfl
  · next k h => exact stays h rfl rfl

theorem requestOpen_iff (s : State) (p : Port) : s.requestOpen p = true ↔
    p = .trunk ∧ ∃ d b, (s.port p).receiver = .inTelegram d b ∧ (s.pool.descriptor d).damage = none
      ∧ (s.pool.descriptor d).address = s.mgmtAddress := by
  unfold State.requestOpen
  split
  · next c opened =>
    cases receiver : (s.port .trunk).receiver with
    | inTelegram d b =>
      rw [receiver] at opened
      cases opened
      simp only [Option.isSome_some, Bool.true_and, Bool.and_eq_true, Option.isNone_iff_eq_none, decide_eq_true_eq,
        true_and]
      constructor
      · exact fun ⟨undamaged, address⟩ => ⟨d, b, rfl, undamaged, address⟩
      · rintro ⟨d', b', same, undamaged, address⟩
        cases same
        exact ⟨undamaged, address⟩
    | discarding a n =>
      rw [receiver] at opened
      cases opened
      simp
    | _ =>
      rw [receiver] at opened
      cases opened
  · next other =>
    refine iff_of_false Bool.false_ne_true ?_
    rintro ⟨rfl, d, b, receiver, -⟩
    exact other _ rfl (by rw [receiver]; rfl)

theorem exec_endGap {s : State} {p : Port} (quiet : (s.port p).quiet = true) : exec (.endGap p) s = .next
    (if s.requestOpen p then (s.reachEndGap p).serveTrunk else s.reachEndGap p) := if_pos quiet

/-- A management request whose completion is the one that waits is counted and handed to the agent. -/
theorem takeCompletion_request {s : State} {c : Completion} {d : DescNo} (waits : (s.port .trunk).completions = [c])
    (held : c.desc = some d) (whole : c.damage = none) (address : c.address = s.mgmtAddress) : s.takeCompletion .trunk =
      (s.setPort .trunk { s.port .trunk with completions := [], counters := (s.port .trunk).counters.addRxTelegram }).withAgent
        { s.agent with requests := s.agent.requests ++ [d] } := by
  unfold State.takeCompletion
  rw [waits]
  dsimp only
  unfold State.classify
  dsimp only
  rw [held, whole]
  dsimp only
  unfold State.admitWhole
  rw [if_pos ⟨rfl, address⟩]
  unfold State.count
  rw [State.onPort_onPort]
  rfl

/-- With one completion waiting on the trunk that hands one request over, both are decided. -/
theorem serveTrunk_single {s : State} {c : Completion} {d : DescNo} (waits : (s.port .trunk).completions = [c])
    (handed : (s.takeCompletion .trunk).agent.requests = [d]) :
    s.serveTrunk = (s.takeCompletion .trunk).takeHanded := by
  unfold State.serveTrunk
  rw [waits]
  dsimp only [List.foldl]
  rw [handed]
  rfl

/-- Settles O12: the gap closes what is open, and a request that it closes goes through the trunk's one completion and the
agent's one request. -/
theorem endGapClosesTelegram : Obligations.EndGapClosesTelegram := by
  refine ⟨fun p s quiet other => ?_, fun s d b quiet receiver whole address clear idle => ?_⟩
  · have run : exec (.endGap p) s = .next (s.setPort p ((s.port p).gapReached s.pool)) := by
      rw [exec_endGap quiet, if_neg (fun opened => other ((requestOpen_iff s p).mp opened)), reachEndGap_eq]
    refine ⟨_, run, ?_⟩
    rw [State.setPort_port]
    refine ⟨rfl, Nat.le_max_right _ _, fun d b open_ => ?_, fun a n open_ => ?_, fun settling => ?_, fun stays => ?_⟩
    all_goals dsimp only [PortState.gapReached]
    · rw [open_]
      exact ⟨rfl, rfl⟩
    · rw [open_]
      exact ⟨rfl, rfl⟩
    · rw [settling]
      exact ⟨rfl, List.append_nil _⟩
    · rcases stays with h | h | ⟨k, h⟩
      · rw [h]; exact ⟨rfl, List.append_nil _⟩
      · rw [h]; exact ⟨rfl, List.append_nil _⟩
      · rw [h]; exact ⟨rfl, List.append_nil _⟩
  · have gap : s.reachEndGap .trunk = s.setPort .trunk { s.port .trunk with
        receiver := .idle, charTail := 0
        markSpan := max (s.port .trunk).markSpan ((s.port .trunk).format.span (s.port .trunk).format.endGap)
        completions := [⟨(s.pool.descriptor d).address, some d, (s.pool.descriptor d).length, (s.pool.descriptor d).wide,
          none⟩] } := by
      rw [reachEndGap_eq]
      dsimp only [PortState.gapReached]
      rw [receiver, clear, ← whole]
      rfl
    have waits : ((s.reachEndGap .trunk).port .trunk).completions = [⟨(s.pool.descriptor d).address, some d,
        (s.pool.descriptor d).length, (s.pool.descriptor d).wide, none⟩] := by
      rw [gap, State.setPort_port]
    have taken := takeCompletion_request waits rfl rfl (by rw [gap]; exact address)
    have handed : ((s.reachEndGap .trunk).takeCompletion .trunk).agent.requests = [d] := by
      rw [taken, gap]
      exact congrArg (· ++ [d]) idle
    have opened : s.requestOpen .trunk = true := (requestOpen_iff s .trunk).mpr ⟨rfl, d, b, receiver, whole, address⟩
    refine ⟨max (s.port .trunk).markSpan ((s.port .trunk).format.span (s.port .trunk).format.endGap),
      (s.reachEndGap .trunk).serveTrunk, (s.reachEndGap .trunk).takeCompletion .trunk, Nat.le_max_right _ _,
      (exec_endGap quiet).trans (congrArg _ (if_pos opened)), by rw [← gap]; rfl, handed,
      congrArg _ (serveTrunk_single waits handed).symm, fun a seq code params c short request bounded telegram => ?_⟩
    have pool : ((s.reachEndGap .trunk).takeCompletion .trunk).pool = s.pool := by
      rw [taken, gap]
      rfl
    have left : ((s.reachEndGap .trunk).takeCompletion .trunk).withAgent
        { ((s.reachEndGap .trunk).takeCompletion .trunk).agent with requests := [] } = s.setPort .trunk { s.port .trunk with
          receiver := .idle, charTail := 0
          markSpan := max (s.port .trunk).markSpan ((s.port .trunk).format.span (s.port .trunk).format.endGap)
          counters := (s.port .trunk).counters.addRxTelegram } := by
      have agent : { s.agent with requests := [] } = s.agent := by rw [← idle]
      rw [taken, gap, State.setPort_port, State.setPort_setPort, ← clear]
      exact congrArg (State.withAgent _) agent
    rw [serveTrunk_single waits handed, takeHanded_formed handed short (by rw [pool]; exact telegram),
      exec_request c _ params _ request, pool, left, ← bump_eq_min bounded]
    rfl

end Sys2Proof.Machine
end

section
/-! PROOFS. A plain entry that joins a queue and is decided, the signal to decide again, and a stand-in reply's storage
(R69, R70, R95, R97, R98). -/

namespace Sys2Proof.Machine

/-! ### The storage of a stand-in reply -/

theorem Pool.setDescriptor_again (q : Pool) (d : DescNo) (x y : Descriptor) :
    (q.setDescriptor d x).setDescriptor d y = q.setDescriptor d y := by
  unfold Pool.setDescriptor
  rw [Vector.set_set]

theorem Pool.giveUp_shared {q : Pool} {d : DescNo} {n : Nat} (h : (q.descriptor d).refs = n + 2) :
    q.giveUp d = q.setDescriptor d { q.descriptor d with state := .held, refs := n + 1 } := by
  unfold Pool.giveUp
  rw [h]
  exact if_neg (Nat.succ_ne_zero n)

/-- The pool with a stand-in reply stored and queued: HELD with one reference. -/
def Pool.heldReply (q : Pool) (d : DescNo) (c : CellNo) (r : ExchangeRecord) (reply : List Chr) (wide : Bool) : Pool :=
  ({ q with free := q.free.tail, cells := writeCells q.cells (c.val * 32) reply } : Pool).setDescriptor d
    { state := .held, arrival := r.target, address := r.originAddress, length := reply.length, cells := [c],
      wide := wide, damage := none, refs := 1 }

theorem Pool.takeCell_eq {q : Pool} {c : CellNo} (h : q.free.head? = some c) :
    q.takeCell = some (c, { q with free := q.free.tail }) := by
  unfold Pool.takeCell
  cases free : q.free with
  | nil => rw [free] at h; cases h
  | cons x rest =>
    rw [free] at h
    cases h
    rfl

theorem Pool.fillStandIn_held (q : Pool) (d : DescNo) (c : CellNo) (r : ExchangeRecord) (reply : List Chr) (wide : Bool) :
    ((({ q with free := q.free.tail } : Pool).fillStandIn d c r reply wide).addRef d).giveUp d
      = q.heldReply d c r reply wide := by
  unfold Pool.addRef Pool.fillStandIn
  rw [Pool.setDescriptor_same, Pool.setDescriptor_again]
  rw [Pool.giveUp_shared (n := 0) (by rw [Pool.setDescriptor_same]), Pool.setDescriptor_same, Pool.setDescriptor_again]
  rfl

/-- A stored reply that no queue takes gives its descriptor and its cell back. -/
theorem Pool.fillStandIn_lost (q : Pool) (d : DescNo) (c : CellNo) (r : ExchangeRecord) (reply : List Chr) (wide : Bool) :
    (({ q with free := q.free.tail } : Pool).fillStandIn d c r reply wide).giveUp d
      = ({ q with free := insertCell c q.free.tail, cells := writeCells q.cells (c.val * 32) reply } : Pool).setDescriptor d
          freeDescriptor := by
  unfold Pool.fillStandIn
  rw [Pool.giveUp_last (by rw [Pool.setDescriptor_same])]
  unfold Pool.release
  rw [Pool.setDescriptor_same, Pool.setDescriptor_again]
  rfl

section
variable {q : Pool} {d : DescNo} {c : CellNo} {r : ExchangeRecord} {reply : List Chr} {wide : Bool}

theorem Pool.heldReply_descriptor : (q.heldReply d c r reply wide).descriptor d
    = { state := .held, arrival := r.target, address := r.originAddress, length := reply.length, cells := [c],
        wide := wide, damage := none, refs := 1 } := Pool.setDescriptor_same _ _ _

theorem Pool.heldReply_other {k : DescNo} (h : k ≠ d) : (q.heldReply d c r reply wide).descriptor k = q.descriptor k :=
  Pool.setDescriptor_other _ _ h

theorem Pool.heldReply_telegram (wf : cellsWf q.cells = true) (short : reply.length ≤ 32) :
    (q.heldReply d c r reply wide).telegram d = reply := by
  unfold Pool.telegram
  rw [Pool.heldReply_descriptor]
  refine List.ext_getElem (by rw [List.length_map, List.length_range]) fun i h1 h2 => ?_
  rw [List.getElem_map, List.getElem_range]
  unfold Pool.charAt Pool.charAddress
  rw [Pool.heldReply_descriptor, show i / Config.cellSize = 0 from Nat.div_eq_of_lt (lt_of_lt_of_le h2 short),
    show i % Config.cellSize = i from Nat.mod_eq_of_lt (lt_of_lt_of_le h2 short)]
  exact readCell_writeCells_self reply q.cells (c.val * 32) i wf h2

theorem Pool.heldReply_stored (short : reply.length ≤ 10) (b : Nat) (away : b < c.val * 32 ∨ c.val * 32 + 10 ≤ b) :
    readCell (q.heldReply d c r reply wide).cells b = readCell q.cells b :=
  readCell_writeCells_other reply q.cells (c.val * 32) b (by omega)

end

theorem standInReply_length {x : Settings} (h : x.inRanges = true) (a : Chr) (o : CloseOutcome) :
    (x.standInReply a o).length ≤ 10 := by
  have length : x.length ≤ 8 := by
    unfold Settings.inRanges inRange at h
    simp only [Bool.and_eq_true, decide_eq_true_eq] at h
    omega
  have body : (x.standInBody a o).length = x.length := by simp [Settings.standInBody]
  unfold Settings.standInReply
  dsimp only
  cases x.check with
  | noCheck => dsimp only; omega
  | sum8 =>
    have check : [sum8 (x.standInBody a o)].length = 1 := rfl
    dsimp only
    rw [List.length_append]
    omega
  | crc16 =>
    have check : (twoChars (crc16 (x.standInBody a o))).length = 2 := rfl
    dsimp only
    rw [List.length_append]
    omega

/-! ### A plain head decided (R97, R99, R100) -/

/-- A port whose plain head of line address `line` has been decided: held where the port's records are as deep as its
overlap depth, else started on a free line, the completion `ks` of what was open raised, else RESERVED. -/
def PortState.decided (x : PortState) (line : Chr) (deep : Bool) (ks : List Completion) : PortState :=
  if deep then { x with scheduler := { x.scheduler with phase := .headHeld } }
  else if x.lineFree then { x.started line with completions := x.completions ++ ks }
  else { x with scheduler := { x.scheduler with phase := .reserved } }

theorem PortState.decided_lineKept (x : PortState) (line : Chr) (deep : Bool) (ks : List Completion) :
    LineKept x (x.decided line deep ks) := by
  unfold PortState.decided LineKept
  split
  · rfl
  · split
    · rfl
    · rfl

theorem PortState.decided_queue (x : PortState) (line : Chr) (deep : Bool) (ks : List Completion) :
    (x.decided line deep ks).scheduler.queue = x.scheduler.queue := by
  unfold PortState.decided
  split
  · rfl
  · split
    · rfl
    · rfl

/-- A port is deep where the open records that target it are no fewer than its overlap depth (R52, R97). -/
def State.deep (s : State) (p : Port) (m : ExchangeMonitor) : Bool := decide ((s.port p).format.overlap ≤ m.openCount p)

theorem held_plain {s : State} {p : Port} {e : QueueEntry} (active : (s.port p).admin = .active) (plain : e.request = none) :
    s.held p e = s.deep p s.exchanges := by
  unfold State.held State.deep
  rw [plain, decide_eq_false (fun h => h active)]
  simp

theorem decideHead_decided {s : State} {p : Port} {e : QueueEntry} {rest : List QueueEntry}
    (queue : (s.scheduler p).queue = e :: rest) (active : (s.port p).admin = .active) (plain : e.request = none) :
    s.decideHead p = s.setPort p ((s.port p).decided e.line (s.deep p s.exchanges)
      (raisedBy s.pool (s.port p).receiver)) := by
  have held := held_plain active plain
  unfold PortState.decided
  cases deep : s.deep p s.exchanges with
  | true =>
    rw [decideHead_held queue (held.trans deep)]
    rfl
  | false =>
    cases free : (s.port p).lineFree with
    | true =>
      rw [decideHead_plain queue (held.trans deep) free plain]
      rfl
    | false =>
      rw [decideHead_reserved queue (held.trans deep) free]
      rfl

/-- A decision does not depend on the phase it finds. -/
theorem PortState.decided_again (x : PortState) (line : Chr) (deep : Bool) (ks ls : List Completion) :
    (x.decided line true ks).decided line deep ls = x.decided line deep ls := by
  unfold PortState.decided
  rw [if_pos rfl]
  cases deep with
  | true => rfl
  | false =>
    cases free : x.lineFree with
    | true =>
      have now : ({ x with scheduler := { x.scheduler with phase := .headHeld } } : PortState).lineFree = true := free
      rw [now]
      rfl
    | false =>
      have now : ({ x with scheduler := { x.scheduler with phase := .headHeld } } : PortState).lineFree = false := free
      rw [now]
      rfl

theorem PortState.decided_started {x : PortState} {line : Chr} {ks : List Completion} :
    (x.decided line false ks).scheduler.phase ≠ .headHeld := by
  unfold PortState.decided
  rw [if_neg Bool.false_ne_true]
  split
  · exact nofun
  · exact nofun

/-! ### The signal to decide again, with heads held on one port alone (R98) -/

theorem redecidePort_other {s : State} {q : Port} (h : (s.scheduler q).phase ≠ .headHeld) : s.redecidePort q = s := if_neg h

theorem redecide_single {s : State} {p : Port} (others : ∀ q, q ≠ p → (s.scheduler q).phase ≠ .headHeld) :
    s.redecide = s.redecidePort p := by
  have skips (l : List Port) : ∀ t : State, p ∉ l → (∀ q ∈ l, (t.scheduler q).phase ≠ .headHeld) →
      l.foldl State.redecidePort t = t := by
    induction l with
    | nil => exact fun _ _ _ => rfl
    | cons q l ih =>
      intro t out quiet
      rw [List.foldl_cons, redecidePort_other (quiet q List.mem_cons_self)]
      exact ih t (fun h => out (List.mem_cons_of_mem _ h)) fun k hk => quiet k (List.mem_cons_of_mem _ hk)
  have kept : OtherPortsKept p s (s.redecidePort p) := by
    unfold State.redecidePort
    split
    · exact (decideHead_attemptOnly s p).others
    · exact OtherPortsKept.refl p s
  obtain ⟨pre, post, parts⟩ := List.append_of_mem (Port.mem_all p)
  have distinct : Port.all.Nodup := by decide
  rw [parts] at distinct
  have ⟨_, tail, apart⟩ := List.nodup_append.mp distinct
  have before : p ∉ pre := fun h => apart p h p List.mem_cons_self rfl
  have after : p ∉ post := (List.nodup_cons.mp tail).1
  unfold State.redecide
  rw [parts, List.foldl_append, List.foldl_cons, skips pre s before fun q hq => others q fun e => before (e ▸ hq)]
  refine skips post _ after fun q hq => ?_
  have away : q ≠ p := fun e => after (e ▸ hq)
  rw [State.scheduler_def, kept q away]
  exact others q away

/-! ### A plain entry that has joined a queue (R85, R95) -/

def PortState.joined (x : PortState) (e : QueueEntry) : PortState :=
  { x with scheduler := { x.scheduler with queue := x.scheduler.queue ++ [e] } }

/-- In `t` the plain entry `e` has joined the queue that port `o` had in `s`: behind other entries, or as the head that
has been decided as the table of `t` stands. -/
structure Joined (s : State) (o : Port) (e : QueueEntry) (t : State) : Prop where
  behind : (s.scheduler o).queue ≠ [] → t.port o = (s.port o).joined e
  head : (s.scheduler o).queue = [] → ∃ q : Pool, t.port o = ((s.port o).joined e).decided e.line
    (s.deep o t.exchanges) (raisedBy q (s.port o).receiver)

section
variable {s : State} {o : Port} {e : QueueEntry}

theorem enqueue_behind (behind : (s.scheduler o).queue ≠ []) :
    s.enqueue o e = (s.withPool (s.pool.addRef e.desc)).setPort o ((s.port o).joined e) := by
  unfold State.enqueue
  exact if_neg (fun h => behind (List.isEmpty_iff.mp h))

theorem enqueue_head (head : (s.scheduler o).queue = []) (active : (s.port o).admin = .active) (plain : e.request = none) :
    s.enqueue o e = (s.withPool (s.pool.addRef e.desc)).setPort o (((s.port o).joined e).decided e.line
      (s.deep o s.exchanges) (raisedBy (s.pool.addRef e.desc) (s.port o).receiver)) := by
  have port : ((s.withPool (s.pool.addRef e.desc)).setPort o ((s.port o).joined e)).port o = (s.port o).joined e :=
    State.setPort_port _ _ _
  have queue : (((s.withPool (s.pool.addRef e.desc)).setPort o ((s.port o).joined e)).scheduler o).queue = [e] := by
    rw [State.scheduler_def, port]
    exact congrArg (· ++ [e]) head
  have deep : ((s.withPool (s.pool.addRef e.desc)).setPort o ((s.port o).joined e)).deep o s.exchanges
      = s.deep o s.exchanges := by
    unfold State.deep
    rw [port]
    rfl
  have decided := decideHead_decided queue (by rw [port]; exact active) plain
  rw [port, State.setPort_setPort] at decided
  unfold State.enqueue
  exact (if_pos (List.isEmpty_iff.mpr head)).trans (decided.trans (by rw [← deep]; rfl))

theorem enqueue_joined (active : (s.port o).admin = .active) (plain : e.request = none) : Joined s o e (s.enqueue o e) := by
  refine ⟨fun behind => ?_, fun head => ⟨s.pool.addRef e.desc, ?_⟩⟩
  · rw [enqueue_behind behind, State.setPort_port]
  · rw [enqueue_head head active plain, State.setPort_port]
    rfl

/-- The entry's joining changes its port alone and counts one more reference. -/
theorem enqueue_setPort (active : (s.port o).admin = .active) (plain : e.request = none) :
    s.enqueue o e = (s.withPool (s.pool.addRef e.desc)).setPort o ((s.enqueue o e).port o) := by
  by_cases head : (s.scheduler o).queue = []
  · rw [enqueue_head head active plain, State.setPort_port]
  · rw [enqueue_behind head, State.setPort_port]

end

namespace Joined
variable {s t : State} {o : Port} {e : QueueEntry}

theorem of_port {u : State} (j : Joined s o e t) (port : u.port o = t.port o) (table : u.exchanges = t.exchanges) :
    Joined s o e u :=
  ⟨fun behind => port.trans (j.behind behind), fun head => by rw [port, table]; exact j.head head⟩

/-- A table with no more open records decides the head that has joined again, where it is held. -/
theorem tableChanged (j : Joined s o e t) (plain : e.request = none) (active : (s.port o).admin = .active)
    (unheld : (s.scheduler o).phase ≠ .headHeld) (others : ∀ q, q ≠ o → (t.scheduler q).phase ≠ .headHeld)
    (depth : t.trunk.pendingDepth = none) {m : ExchangeMonitor} (fewer : m.openCount o ≤ t.exchanges.openCount o) :
    (t.withTable m).tableChanged = (t.withTable m).setPort o ((t.withTable m).tableChanged.port o)
      ∧ Joined s o e (t.withTable m).tableChanged := by
  have single : (t.withTable m).tableChanged = (t.withTable m).redecidePort o := by
    unfold State.tableChanged
    rw [settleDepth_idle (s := t.withTable m) depth, redecide_single (s := t.withTable m) others]
  have stays (phase : ((t.withTable m).scheduler o).phase ≠ .headHeld) : (t.withTable m).tableChanged = t.withTable m :=
    single.trans (redecidePort_other phase)
  by_cases queue : (s.scheduler o).queue = []
  · obtain ⟨q, port⟩ := j.head queue
    cases deep : s.deep o t.exchanges with
    | true =>
      rw [deep] at port
      have held : t.port o = { (s.port o).joined e with scheduler := { ((s.port o).joined e).scheduler with phase := .headHeld } } :=
        port
      have entries : ((t.withTable m).scheduler o).queue = [e] :=
        (congrArg (fun x => x.scheduler.queue) held).trans (congrArg (· ++ [e]) queue)
      have decided := decideHead_decided (s := t.withTable m) entries ((congrArg PortState.admin held).trans active) plain
      have again : (t.withTable m).tableChanged = (t.withTable m).setPort o (((s.port o).joined e).decided e.line
          (s.deep o m) (raisedBy t.pool (s.port o).receiver)) := by
        have phase : ((t.withTable m).scheduler o).phase = .headHeld := congrArg (fun x => x.scheduler.phase) held
        have format : (t.withTable m).deep o m = s.deep o m := by
          unfold State.deep
          rw [show ((t.withTable m).port o).format = (s.port o).format from (congrArg PortState.format held).trans rfl]
        have receiver : (t.port o).receiver = (s.port o).receiver := (congrArg PortState.receiver held).trans rfl
        refine single.trans ((if_pos phase).trans (decided.trans ?_))
        rw [format, show ((t.withTable m).port o).receiver = (s.port o).receiver from receiver,
          show (t.withTable m).port o = _ from port, PortState.decided_again]
      refine ⟨?_, fun behind => absurd queue behind, fun _ => ⟨t.pool, ?_⟩⟩
      · rw [again, State.setPort_port]
      · rw [again, State.setPort_port]
        rfl
    | false =>
      have shallow : s.deep o m = false := by
        unfold State.deep at deep ⊢
        rw [decide_eq_false_iff_not] at deep ⊢
        omega
      rw [deep] at port
      have phase : ((t.withTable m).scheduler o).phase ≠ .headHeld := by
        rw [State.scheduler_def, show (t.withTable m).port o = _ from port]
        exact PortState.decided_started
      rw [stays phase]
      refine ⟨(State.setPort_same _ _).symm, fun behind => absurd queue behind, fun _ => ⟨q, ?_⟩⟩
      exact port.trans (by rw [← shallow])
  · have port := j.behind queue
    have phase : ((t.withTable m).scheduler o).phase ≠ .headHeld := by
      rw [State.scheduler_def, show (t.withTable m).port o = _ from port]
      exact unheld
    rw [stays phase]
    exact ⟨(State.setPort_same _ _).symm, fun _ => port, fun head => absurd head queue⟩

end Joined

end Sys2Proof.Machine
end

section
/-! PROOFS. Stand-in replies and closes (R57, R61 to R63, R65, R68 to R70): a reply stored and queued at its origin, one
lost, and the deadline and the linger of a record. -/

namespace Sys2Proof.Machine

/-! ### A head as the statements read it (Table 5-4, R100) -/

theorem raisedBy_desc {q : Pool} {o : DescNo} {b : Bool} : ∃ k, raisedBy q (.inTelegram o b) = [k] ∧ k.desc = some o :=
  ⟨_, rfl, rfl⟩

theorem raisedBy_closed {q : Pool} {r : Receiver} (stored : ∀ o b, r ≠ .inTelegram o b) (counted : ∀ a n, r ≠ .discarding a n) :
    raisedBy q r = [] := by
  cases r with
  | inTelegram o b => exact absurd rfl (stored o b)
  | discarding a n => exact absurd rfl (counted a n)
  | _ => rfl

theorem Joined.decided {s t : State} {o : Port} {e : QueueEntry} (j : Joined s o e t) (queue : (s.scheduler o).queue = []) :
    HeadDecided o s t e := by
  obtain ⟨q, port⟩ := j.head queue
  have entries : (s.scheduler o).queue ++ [e] = [e] := congrArg (· ++ [e]) queue
  unfold HeadDecided
  unfold PortState.decided State.deep at port
  by_cases deep : (s.port o).format.overlap ≤ t.exchanges.openCount o
  · rw [if_pos deep, ← entries]
    rw [if_pos (decide_eq_true deep)] at port
    exact port
  · rw [if_neg deep]
    rw [if_neg (by rw [decide_eq_true_eq]; exact deep)] at port
    by_cases free : (s.port o).lineFree = true
    · rw [if_pos ((PortState.lineFree_iff _).mp free)]
      rw [if_pos (show ((s.port o).joined e).lineFree = true from free)] at port
      refine ⟨?_, fun d b open_ => ?_, fun a n open_ => ?_, fun stored counted => ?_⟩
      · rw [port, ← entries]
        rfl
      · obtain ⟨k, raised, desc⟩ := raisedBy_desc (q := q) (o := d) (b := b)
        rw [port, open_, raised]
        exact ⟨k, rfl, desc⟩
      · rw [port, open_]
        rfl
      · rw [port, raisedBy_closed stored counted]
        exact List.append_nil _
    · rw [if_neg (fun h => free ((PortState.lineFree_iff _).mpr h)), ← entries]
      rw [if_neg (show ¬((s.port o).joined e).lineFree = true from free)] at port
      exact port

theorem Joined.queue {s t : State} {o : Port} {e : QueueEntry} (j : Joined s o e t) :
    (t.scheduler o).queue = (s.scheduler o).queue ++ [e] := by
  by_cases queue : (s.scheduler o).queue = []
  · obtain ⟨q, port⟩ := j.head queue
    rw [State.scheduler_def, port, PortState.decided_queue]
    rfl
  · rw [State.scheduler_def, j.behind queue]
    rfl

theorem Joined.lineKept {s t : State} {o : Port} {e : QueueEntry} (j : Joined s o e t) : LineKept (s.port o) (t.port o) := by
  by_cases queue : (s.scheduler o).queue = []
  · obtain ⟨q, port⟩ := j.head queue
    rw [port]
    exact LineKept.trans (show LineKept (s.port o) ((s.port o).joined e) from rfl) (PortState.decided_lineKept _ _ _ _)
  · rw [j.behind queue]
    rfl

/-! ### A stand-in reply offered (R70) -/

/-- The entry of record `r`'s stand-in reply in descriptor `d`. -/
def ExchangeRecord.replyEntry (r : ExchangeRecord) (d : DescNo) : QueueEntry :=
  { desc := d, line := r.originAddress, request := none }

/-- The wide flag of a stand-in reply. -/
def wideReply (reply : List Chr) : Bool := (reply.drop 1).any fun x => decide (x.toNat > 0x7F)

/-- The pool of `s` with the stand-in reply of record `r` stored in `d` and `c`. -/
def State.replyPool (s : State) (r : ExchangeRecord) (o : CloseOutcome) (d : DescNo) (c : CellNo) : Pool :=
  s.pool.heldReply d c r (s.agent.settings.standInReply r.originAddress o)
    (wideReply (s.agent.settings.standInReply r.originAddress o))

/-- The state of `s` while that reply is offered, its descriptor RECEIVING. -/
def State.replyFilled (s : State) (r : ExchangeRecord) (o : CloseOutcome) (d : DescNo) (c : CellNo) : State :=
  s.withPool (({ s.pool with free := s.pool.free.tail } : Pool).fillStandIn d c r
    (s.agent.settings.standInReply r.originAddress o) (wideReply (s.agent.settings.standInReply r.originAddress o)))

/-- In `t` the stand-in reply of record `r` is stored and queued at its origin; besides, `t` differs from `s` in the table
and the notices alone. -/
structure StandInStored (s t : State) (r : ExchangeRecord) (o : CloseOutcome) (d : DescNo) (c : CellNo) : Prop where
  state : ∃ n m x, t = (((s.withPool (s.replyPool r o d c)).withNotices n).withTable m).setPort r.origin x
  joined : Joined s r.origin (r.replyEntry d) t

theorem filter_pool (s : State) (q : Pool) (p : Port) (line : Chr) (wide : Bool) :
    (s.withPool q).filter p line wide = s.filter p line wide := by
  unfold State.filter
  cases p <;> rfl

section
variable {s : State} {r : ExchangeRecord} {o : CloseOutcome} {d : DescNo} {c : CellNo}

theorem StandInTaken.active (h : StandInTaken s r o d c) : (s.port r.origin).admin = .active := passes_active h.offered

theorem standIn_taken (h : StandInTaken s r o d c) :
    s.standIn r o = ((s.replyFilled r o d c).enqueue r.origin (r.replyEntry d)).withPool (s.replyPool r o d c) := by
  have offered : (s.replyFilled r o d c).filter r.origin r.originAddress
      (wideReply (s.agent.settings.standInReply r.originAddress o)) = none :=
    (filter_pool s _ r.origin r.originAddress _).trans h.offered
  unfold State.standIn
  rw [h.descriptor, Pool.takeCell_eq h.cell]
  dsimp only
  split
  · have pool := (enqueue_spec (s.replyFilled r o d c) r.origin (r.replyEntry d)).2.2.2.1
    exact congrArg (State.withPool _) ((congrArg (Pool.giveUp · d) pool).trans (Pool.fillStandIn_held _ _ _ _ _ _))
  · next why left => exact absurd (offered.symm.trans left) nofun

theorem standIn_stored (h : StandInTaken s r o d c) :
    StandInStored s (s.standIn r o) r o d c ∧ (s.standIn r o).notices = s.notices := by
  have changed := enqueue_setPort (s := s.replyFilled r o d c) (e := r.replyEntry d) h.active rfl
  have joined := enqueue_joined (s := s.replyFilled r o d c) (e := r.replyEntry d) h.active rfl
  rw [standIn_taken h]
  generalize (s.replyFilled r o d c).enqueue r.origin (r.replyEntry d) = u at changed joined ⊢
  have table : u.exchanges = s.exchanges := by rw [changed]; rfl
  refine ⟨⟨⟨s.notices, s.exchanges, u.port r.origin, congrArg (State.withPool · _) changed⟩,
    ⟨joined.behind, fun head => ?_⟩⟩, ?_⟩
  · obtain ⟨q, port⟩ := joined.head head
    exact ⟨q, port.trans rfl⟩
  · exact (congrArg State.notices changed).trans rfl

/-- A further post, a change of the table and the signal that follows keep the reply stored and queued. -/
theorem StandInStored.tableChanged {t : State} (h : StandInStored s t r o d c) (active : (s.port r.origin).admin = .active)
    (unheld : NoHeadHeld s) (depth : s.trunk.pendingDepth = none) (n : NoticeQueue) {m : ExchangeMonitor}
    (fewer : m.openCount r.origin ≤ t.exchanges.openCount r.origin) :
    StandInStored s ((t.withNotices n).withTable m).tableChanged r o d c
      ∧ ((t.withNotices n).withTable m).tableChanged.notices = n
      ∧ ((t.withNotices n).withTable m).tableChanged.exchanges = m := by
  obtain ⟨n', m', x, state⟩ := h.state
  have others (q : Port) (away : q ≠ r.origin) : (t.withNotices n).port q = s.port q := by
    rw [state]
    exact State.setPort_port_other _ _ away
  have waits : t.trunk.pendingDepth = none := by
    rw [state]
    exact depth
  obtain ⟨changed, joined⟩ := Joined.tableChanged (t := t.withNotices n) (h.joined.of_port rfl rfl) rfl active
    (unheld r.origin) (fun q away => by rw [State.scheduler_def, others q away]; exact unheld q) waits fewer
  generalize ((t.withNotices n).withTable m).tableChanged = u at changed joined ⊢
  refine ⟨⟨⟨n, m, u.port r.origin, ?_⟩, joined⟩, (congrArg State.notices changed).trans rfl,
    (congrArg State.exchanges changed).trans rfl⟩
  refine changed.trans ?_
  subst state
  exact State.setPort_setPort (((s.withPool (s.replyPool r o d c)).withNotices n).withTable m) _ _ _

theorem StandInStored.queued {t : State} (h : StandInStored s t r o d c) (wf : CellsCanonical s)
    (settings : s.agent.settings.inRanges = true) : StandInQueued s t r o d c := by
  obtain ⟨n, m, x, state⟩ := h.state
  have pool : t.pool = s.replyPool r o d c := by rw [state]; rfl
  refine ⟨?_, ?_, h.joined.queue, h.joined.behind, h.joined.decided⟩
  · rw [pool]
    exact Pool.heldReply_telegram wf ((standInReply_length settings _ _).trans (by decide))
  · rw [pool]
    unfold State.replyPool
    rw [Pool.heldReply_descriptor]
    exact ⟨rfl, rfl, rfl, rfl⟩

/-- The notices once the close of record `r` is posted. -/
def NoticeQueue.closing (q : NoticeQueue) (r : ExchangeRecord) (o : CloseOutcome) : NoticeQueue :=
  q.post .exchangeClosed (some r.target) (some r.line) (some o.code)

theorem closed_openCount_le (m : ExchangeMonitor) (r : ExchangeRecord) (o : CloseOutcome) (p : Port) :
    (m.closed r o).openCount p ≤ m.openCount p := (m.thinned_closed r o).openCount_le p

theorem closePosted_plain (plain : r.standIn = false) : s.closePosted r o = s.withNotices (s.notices.closing r o) := by
  unfold State.closePosted
  dsimp only
  rw [plain]
  rfl

theorem closePosted_answered (answered : r.standIn = true) :
    s.closePosted r o = (s.withNotices (s.notices.closing r o)).standIn r o := by
  unfold State.closePosted
  dsimp only
  rw [answered]
  rfl

/-- A close without a stand-in reply, where no head is held and no depth waits. -/
theorem closeExchange_plain (plain : r.standIn = false) (unheld : NoHeadHeld s) (depth : s.trunk.pendingDepth = none) :
    s.closeExchange r o = (s.withNotices (s.notices.closing r o)).withTable (s.exchanges.closed r o) := by
  rw [closeExchange_eq, closePosted_plain plain]
  exact tableChanged_idle (s := (s.withNotices (s.notices.closing r o)).withTable (s.exchanges.closed r o)) unheld depth

/-- A close whose stand-in reply is stored and taken. -/
theorem closeExchange_taken (standIn : r.standIn = true) (h : StandInTaken s r o d c) (unheld : NoHeadHeld s)
    (depth : s.trunk.pendingDepth = none) :
    StandInStored s (s.closeExchange r o) r o d c ∧ (s.closeExchange r o).notices = s.notices.closing r o
      ∧ (s.closeExchange r o).exchanges = s.exchanges.closed r o := by
  have taken : StandInTaken (s.withNotices (s.notices.closing r o)) r o d c := ⟨h.descriptor, h.cell, h.offered⟩
  obtain ⟨⟨state, joined⟩, notices⟩ := standIn_stored taken
  have table : ((s.withNotices (s.notices.closing r o)).standIn r o).exchanges = s.exchanges := standIn_exchanges _ r o
  rw [closeExchange_eq, closePosted_answered standIn]
  have stored : StandInStored s ((s.withNotices (s.notices.closing r o)).standIn r o) r o d c :=
    ⟨state, joined.behind, joined.head⟩
  generalize (s.withNotices (s.notices.closing r o)).standIn r o = u at stored notices table ⊢
  have same : u.withNotices u.notices = u := rfl
  have changed := stored.tableChanged h.active unheld depth u.notices (m := s.exchanges.closed r o)
    (by rw [table]; exact closed_openCount_le _ _ _ _)
  rw [same, notices] at changed
  exact changed

/-- Another close, of a record without stand-in, keeps the reply stored and queued. -/
theorem StandInStored.close {t : State} (h : StandInStored s t r o d c) (active : (s.port r.origin).admin = .active)
    (unheld : NoHeadHeld s) (depth : s.trunk.pendingDepth = none) {x : ExchangeRecord} (plain : x.standIn = false)
    (out : CloseOutcome) :
    StandInStored s (t.closeExchange x out) r o d c ∧ (t.closeExchange x out).notices = t.notices.closing x out
      ∧ (t.closeExchange x out).exchanges = t.exchanges.closed x out := by
  rw [closeExchange_eq, closePosted_plain plain]
  exact h.tableChanged active unheld depth _ (closed_openCount_le _ _ _ _)

/-- A close whose stand-in reply finds no descriptor or no cell, or is left out at the origin. -/
theorem closeExchange_lost {code : Word16} {q : Pool} (standIn : r.standIn = true)
    (lost : (s.withNotices (s.notices.closing r o)).standIn r o
      = ((s.withPool q).withNotices ((s.notices.closing r o).post .standinLost (some r.origin) (some r.originAddress)
          (some code))))
    (unheld : NoHeadHeld s) (depth : s.trunk.pendingDepth = none) :
    s.closeExchange r o = ((s.withPool q).withNotices ((s.notices.closing r o).post .standinLost (some r.origin)
      (some r.originAddress) (some code))).withTable (s.exchanges.closed r o) := by
  rw [closeExchange_eq, closePosted_answered standIn, lost]
  exact tableChanged_idle (s := ((s.withPool q).withNotices ((s.notices.closing r o).post .standinLost (some r.origin)
    (some r.originAddress) (some code))).withTable (s.exchanges.closed r o)) unheld depth

/-- The reply finds no descriptor, or no cell. -/
theorem standIn_without (none : s.pool.freeDescriptor? = none ∨ s.pool.free = []) : s.standIn r o =
    s.withNotices (s.notices.post .standinLost (some r.origin) (some r.originAddress)
      (some (if s.pool.freeDescriptor? = Option.none then 4 else 5))) := by
  unfold State.standIn
  cases found : s.pool.freeDescriptor? with
  | none => rfl
  | some d =>
    have empty : s.pool.takeCell = Option.none := by
      unfold Pool.takeCell
      rw [none.resolve_left (by rw [found]; exact nofun)]
    rw [empty]
    rfl

/-- The reply is stored and left out at its origin. -/
theorem standIn_omitted {why : OmitReason} (descriptor : s.pool.freeDescriptor? = some d) (cell : s.pool.free.head? = some c)
    (omitted : s.filter r.origin r.originAddress (wideReply (s.agent.settings.standInReply r.originAddress o)) = some why) :
    s.standIn r o = (s.withPool ((s.replyFilled r o d c).pool.giveUp d)).withNotices
      (s.notices.post .standinLost (some r.origin) (some r.originAddress) (some (LossReason.omitted why).code)) := by
  have offered : (s.replyFilled r o d c).filter r.origin r.originAddress
      (wideReply (s.agent.settings.standInReply r.originAddress o)) = some why :=
    (filter_pool s _ r.origin r.originAddress _).trans omitted
  unfold State.standIn
  rw [descriptor, Pool.takeCell_eq cell]
  dsimp only
  split
  · next passes => exact absurd (offered.symm.trans passes) nofun
  · next other left =>
    cases Option.some.inj (offered.symm.trans left)
    rfl

end

end Sys2Proof.Machine
end

section
/-! PROOFS. The deadline and the linger of an exchange record (R57, R66, R70, R98, R153), and the characters of a stand-in
reply (R69). -/

namespace Sys2Proof.Machine

/-! ### The two expiries -/

section
variable {s : State} {p : Port} {line : Chr} {r : ExchangeRecord}

theorem exec_deadlineExpiry (found : s.exchanges.find p line = some r) (awaiting : r.state = .awaiting) :
    exec (.deadlineExpiry p line) s = .next (s.closeExchange r .noAnswer) := by
  change execDeadlineExpiry p line s = _
  unfold execDeadlineExpiry
  rw [found]
  exact if_pos awaiting

theorem exec_deadlineExpiry_none (found : s.exchanges.find p line = none) : exec (.deadlineExpiry p line) s = .next s := by
  change execDeadlineExpiry p line s = _
  unfold execDeadlineExpiry
  rw [found]

theorem exec_deadlineExpiry_other (found : s.exchanges.find p line = some r) (other : r.state ≠ .awaiting) :
    exec (.deadlineExpiry p line) s = .next s := by
  change execDeadlineExpiry p line s = _
  unfold execDeadlineExpiry
  rw [found]
  exact if_neg other

theorem exec_lingerExpiry (found : s.exchanges.find p line = some r) (lapsed : r.state = .lapsed) (unheld : r.lateHold = false) :
    exec (.lingerExpiry p line) s = .next (s.freeRecord p line) := by
  change execLingerExpiry p line s = _
  unfold execLingerExpiry
  rw [found]
  exact if_pos ⟨lapsed, unheld⟩

theorem exec_lingerExpiry_none (found : s.exchanges.find p line = none) : exec (.lingerExpiry p line) s = .next s := by
  change execLingerExpiry p line s = _
  unfold execLingerExpiry
  rw [found]

theorem exec_lingerExpiry_other (found : s.exchanges.find p line = some r) (other : r.state ≠ .lapsed ∨ r.lateHold = true) :
    exec (.lingerExpiry p line) s = .next s := by
  change execLingerExpiry p line s = _
  unfold execLingerExpiry
  rw [found]
  refine if_neg fun h => ?_
  rcases other with state | hold
  · exact state h.1
  · exact Bool.false_ne_true (h.2.symm.trans hold)

end

/-- The table with record `r` in LAPSED. -/
theorem closed_noAnswer {m : ExchangeMonitor} (one : OnePerPair m.records) {r : ExchangeRecord} (mem : r ∈ m.records) :
    m.closed r .noAnswer = { m with records := m.records.map fun x =>
      if x = r then { r with state := .lapsed, remaining := r.window, lateHold := false } else x } :=
  ExchangeMonitor.change_eq one mem ExchangeRecord.lapse

/-- A record that lapses leaves the open ones of its port one fewer. -/
theorem lapsed_openCount {m : ExchangeMonitor} (one : OnePerPair m.records) {r : ExchangeRecord} (mem : r ∈ m.records)
    (opened : r.isOpen = true) : (m.closed r .noAnswer).openCount r.target + 1 = m.openCount r.target := by
  have distinct : m.records.Nodup := one.imp fun {a b} apart same => apart ⟨congrArg _ same, congrArg _ same⟩
  rw [closed_noAnswer one mem]
  unfold ExchangeMonitor.openCount
  dsimp only
  obtain ⟨pre, post, parts⟩ := List.append_of_mem mem
  rw [parts] at distinct ⊢
  have ⟨_, tail, apart⟩ := List.nodup_append.mp distinct
  have stays (l : List ExchangeRecord) (out : r ∉ l) :
      l.map (fun x => if x = r then { r with state := .lapsed, remaining := r.window, lateHold := false } else x) = l :=
    (List.map_congr_left (g := id) fun x hx => if_neg fun same : x = r => out (same ▸ hx)).trans (List.map_id l)
  rw [List.map_append, List.map_cons, stays pre fun h => apart r h r List.mem_cons_self rfl,
    stays post (List.nodup_cons.mp tail).1, if_pos rfl]
  simp only [List.filter_append, List.filter_cons, List.length_append]
  rw [if_neg, if_pos]
  · rw [List.length_cons, Nat.add_assoc]
  · rw [opened]
    simp
  · unfold ExchangeRecord.isOpen
    simp

/-! ### The characters of a stand-in reply (R69, Table 3-8) -/

theorem standInBody_get (x : Settings) (a : Chr) (o : CloseOutcome) {k : Nat} (h : k < x.length) :
    (x.standInBody a o)[k]? = some (if k = 0 then a else if k = x.reasonPos then x.reasonCode o else x.filler.getD k 0) := by
  unfold Settings.standInBody
  rw [List.getElem?_map, List.getElem?_range h]
  rfl

/-- The check characters that follow the body. -/
def Settings.standInCheck (x : Settings) (body : List Chr) : List Chr :=
  match x.check with
  | .noCheck => []
  | .sum8 => [sum8 body]
  | .crc16 => twoChars (crc16 body)

theorem standInReply_eq (x : Settings) (a : Chr) (o : CloseOutcome) :
    x.standInReply a o = x.standInBody a o ++ x.standInCheck (x.standInBody a o) := by
  unfold Settings.standInReply Settings.standInCheck
  dsimp only
  cases x.check with
  | noCheck => exact (List.append_nil _).symm
  | sum8 => rfl
  | crc16 => rfl

theorem sum8_toNat (l : List Chr) : (sum8 l).toNat = (l.map BitVec.toNat).sum % 256 := by
  have sums (l : List Chr) : ∀ c : Chr, (l.foldl (· + ·) c).toNat = (c.toNat + (l.map BitVec.toNat).sum) % 256 := by
    induction l with
    | nil => exact fun c => (Nat.mod_eq_of_lt c.isLt).symm
    | cons x l ih =>
      intro c
      rw [List.foldl_cons, ih, List.map_cons, List.sum_cons, BitVec.toNat_add, Nat.mod_add_mod, Nat.add_assoc]
  exact (sums l 0).trans (congrArg (· % 256) (Nat.zero_add _))

theorem standInReply_get {x : Settings} {a : Chr} {o : CloseOutcome} {k : Nat} (h : k < x.length) :
    (x.standInReply a o)[k]? = some (if k = 0 then a else if k = x.reasonPos then x.reasonCode o else x.filler.getD k 0) := by
  have length : (x.standInBody a o).length = x.length := by simp [Settings.standInBody]
  rw [standInReply_eq, List.getElem?_append_left (by rw [length]; exact h)]
  exact standInBody_get x a o h

theorem standInReply_spec {x : Settings} (ranges : x.inRanges = true) (a : Chr) (o : CloseOutcome) :
    (x.standInReply a o)[0]? = some a ∧ (x.standInReply a o)[x.reasonPos]? = some (x.reasonCode o)
      ∧ (∀ k, 1 ≤ k → k < x.length → k ≠ x.reasonPos → (x.standInReply a o)[k]? = some (x.filler.getD k 0))
      ∧ (x.check = .noCheck → (x.standInReply a o).length = x.length)
      ∧ (x.check = .sum8 → (x.standInReply a o).length = x.length + 1
          ∧ ((x.standInReply a o)[x.length]?).map BitVec.toNat
              = some ((((x.standInReply a o).take x.length).map BitVec.toNat).sum % 256))
      ∧ (x.check = .crc16 → (x.standInReply a o).length = x.length + 2
          ∧ (x.standInReply a o).drop x.length = twoChars (crc16 ((x.standInReply a o).take x.length))) := by
  have bounds : 2 ≤ x.length ∧ 1 ≤ x.reasonPos ∧ x.reasonPos ≤ x.length - 1 := by
    unfold Settings.inRanges inRange at ranges
    simp only [Bool.and_eq_true, decide_eq_true_eq] at ranges
    omega
  obtain ⟨long, after, before⟩ := bounds
  have length : (x.standInBody a o).length = x.length := by simp [Settings.standInBody]
  have body : (x.standInReply a o).take x.length = x.standInBody a o := by
    rw [standInReply_eq, ← length, List.take_left]
  have check : (x.standInReply a o).drop x.length = x.standInCheck (x.standInBody a o) := by
    rw [standInReply_eq, ← length, List.drop_left]
  have total : (x.standInReply a o).length = x.length + (x.standInCheck (x.standInBody a o)).length := by
    rw [standInReply_eq, List.length_append, length]
  refine ⟨?_, ?_, fun k one short other => ?_, fun none => ?_, fun sum => ⟨?_, ?_⟩, fun crc => ⟨?_, ?_⟩⟩
  · rw [standInReply_get (by omega), if_pos rfl]
  · rw [standInReply_get (by omega), if_neg (by omega), if_pos rfl]
  · rw [standInReply_get short, if_neg (by omega), if_neg other]
  all_goals unfold Settings.standInCheck at total check
  · rw [total, none]
    rfl
  · rw [total, sum]
    rfl
  · have last : (x.standInReply a o)[x.length]? = some (sum8 (x.standInBody a o)) := by
      rw [standInReply_eq]
      unfold Settings.standInCheck
      rw [sum, ← length]
      exact List.getElem?_concat_length
    rw [body, ← sum8_toNat, last]
    rfl
  · rw [total, crc]
    rfl
  · rw [check, body, crc]

/-! ### The obligations -/

/-- The fields of a stand-in reply's pool that a reply left out gives back. -/
theorem replyFilled_giveUp (s : State) (r : ExchangeRecord) (o : CloseOutcome) (d : DescNo) (c : CellNo) :
    (s.replyFilled r o d c).pool.giveUp d = ({ s.pool with
      free := insertCell c s.pool.free.tail
      cells := writeCells s.pool.cells (c.val * 32) (s.agent.settings.standInReply r.originAddress o) } : Pool).setDescriptor d
        freeDescriptor := Pool.fillStandIn_lost _ _ _ _ _ _

/-- The lowest cell goes back to the front of a sorted free list. -/
theorem insertCell_front {c : CellNo} {cs : List CellNo} (sorted : (c :: cs).Pairwise (· < ·)) : insertCell c cs = c :: cs := by
  cases cs with
  | nil => rfl
  | cons x xs => exact if_pos ((List.pairwise_cons.mp sorted).1 x List.mem_cons_self)

/-- Settles O30: the reply's characters by its layout; a deadline whose reply is taken, and one whose reply is left out. -/
theorem standInReplyIsQueued : Obligations.StandInReplyIsQueued := by
  refine ⟨fun x a o y ranges reply => ?_, fun p line s r d c cs wf sound settings found awaiting standIn descriptor free offered unheld
      depth => ?_, fun p line s r d c cs why wf sound settings sorted found awaiting standIn descriptor free omitted unheld
      depth => ?_⟩
  · subst reply
    obtain ⟨first, reason, rest⟩ := standInReply_spec ranges a o
    refine ⟨first, reason.trans ?_, rest⟩
    cases o with
    | noAnswer => rfl
    | damaged => rfl
    | unreachable => rfl
  all_goals
    obtain ⟨mem, rfl, rfl⟩ := ExchangeMonitor.find_some found
    have cell : s.pool.free.head? = some c := by rw [free]; rfl
  · have taken : StandInTaken s r .noAnswer d c := ⟨descriptor, cell, offered⟩
    obtain ⟨stored, notices, table⟩ := closeExchange_taken standIn taken unheld depth
    refine ⟨_, exec_deadlineExpiry found awaiting, ?_⟩
    generalize s.closeExchange r .noAnswer = t at stored notices table ⊢
    obtain ⟨telegram, ⟨state, refs, cells, arrival⟩, queue, behind, decided⟩ := stored.queued wf settings
    obtain ⟨n, m, x, shape⟩ := stored.state
    have pool : t.pool = s.replyPool r .noAnswer d c := by rw [shape]; rfl
    refine ⟨telegram, state, refs, cells, arrival, ?_, fun k other => ?_, fun b away => ?_, behind, decided, fun q away => ?_,
      notices, ?_, ?_, ?_⟩
    · rw [pool]
      exact (congrArg List.tail free).trans rfl
    · rw [pool]
      exact Pool.heldReply_other other
    · rw [pool]
      exact Pool.heldReply_stored (standInReply_length settings _ _) b away
    · rw [shape]
      exact State.setPort_port_other _ _ away
    · rw [table, closed_noAnswer sound.2 mem]
    · rw [shape]; rfl
    · rw [shape]; rfl
  · have lost := standIn_omitted (s := s.withNotices (s.notices.closing r .noAnswer)) (o := .noAnswer) descriptor cell omitted
    refine ⟨_, (exec_deadlineExpiry found awaiting).trans (congrArg _ (closeExchange_lost standIn lost unheld depth)), ?_⟩
    have pool := replyFilled_giveUp (s.withNotices (s.notices.closing r .noAnswer)) r .noAnswer d c
    rw [closed_noAnswer sound.2 mem, pool]
    refine ⟨?_, ?_, ?_, ?_, fun k other => Pool.setDescriptor_other _ _ other, ?_, fun b away => ?_⟩
    · cases why with
      | portDown => rfl
      | width => rfl
      | queueFull => rfl
    · exact congrArg Descriptor.state (Pool.setDescriptor_same _ _ _)
    · exact congrArg Descriptor.refs (Pool.setDescriptor_same _ _ _)
    · exact congrArg Descriptor.cells (Pool.setDescriptor_same _ _ _)
    · change insertCell c s.pool.free.tail = _
      rw [free]
      exact insertCell_front (free ▸ sorted)
    · have short := standInReply_length settings r.originAddress .noAnswer
      exact readCell_writeCells_other _ _ _ b (away.imp_right (Nat.add_le_add_left short _).trans)

theorem freeRecord_idle {s : State} {p : Port} {line : Chr} (unheld : NoHeadHeld s) (depth : s.trunk.pendingDepth = none) :
    s.freeRecord p line = s.withTable (s.exchanges.removePair p line) :=
  tableChanged_idle (s := s.withTable (s.exchanges.removePair p line)) unheld depth

/-- The deadline of a record without stand-in, up to the depth it may settle and the heads it may decide again. -/
theorem closeExchange_silent {s : State} {r : ExchangeRecord} (plain : r.standIn = false) : s.closeExchange r .noAnswer =
    ((s.withNotices (s.notices.closing r .noAnswer)).withTable (s.exchanges.closed r .noAnswer)).tableChanged := by
  rw [closeExchange_eq, closePosted_plain plain]

/-- A depth that waits, settled or waiting on, where no head is held. -/
theorem tableChanged_depth {s : State} {d : Nat} (unheld : NoHeadHeld s) (waits : s.trunk.pendingDepth = some d) :
    s.tableChanged = if s.exchanges.openCount .trunk ≤ d then
        (s.withTrunk { s.trunk with pendingDepth := none }).setPort .trunk
          { s.port .trunk with format := { (s.port .trunk).format with overlap := d } }
      else s := by
  have settled : s.settleDepth = if s.exchanges.openCount .trunk ≤ d then
        (s.withTrunk { s.trunk with pendingDepth := none }).setPort .trunk
          { s.port .trunk with format := { (s.port .trunk).format with overlap := d } }
      else s := by
    unfold State.settleDepth
    rw [waits]
    rfl
  unfold State.tableChanged
  rw [settled]
  split
  · refine redecide_idle fun q => ?_
    by_cases trunk : q = .trunk
    · subst trunk
      rw [State.scheduler_def, State.setPort_port]
      exact unheld .trunk
    · rw [State.scheduler_def, State.setPort_port_other _ _ trunk]
      exact unheld q
  · exact redecide_idle unheld

/-- Settles O29: the expiries by the record they name, the deadline's signal by the head it may decide again. -/
theorem deadlineAndLinger : Obligations.DeadlineAndLinger := by
  refine ⟨fun p line s r found sound unheld depth => ⟨?_, ?_⟩, fun line s r d found awaiting plain sound unheld waits => ?_,
    fun p h line s u r e rest found awaiting plain sound depth held queue state => ?_, fun p line s found =>
    ⟨exec_deadlineExpiry_none found, exec_lingerExpiry_none found⟩, fun p line s r found =>
    ⟨exec_deadlineExpiry_other found, exec_lingerExpiry_other found⟩⟩
  all_goals obtain ⟨mem, target, line'⟩ := ExchangeMonitor.find_some found
  · by_cases awaiting : r.state = .awaiting
    · refine ⟨_, exec_deadlineExpiry found awaiting, fun _ without => ?_⟩
      subst target line'
      by_cases standIn : r.standIn = true
      · rw [closeExchange_lost (q := s.pool) standIn (standIn_without (without standIn)) unheld depth,
          closed_noAnswer sound.2 mem, if_pos standIn]
        rfl
      · rw [closeExchange_plain (Bool.eq_false_iff.mpr standIn) unheld depth, closed_noAnswer sound.2 mem, if_neg standIn]
        rfl
    · exact ⟨_, exec_deadlineExpiry_other found awaiting, fun h => absurd h awaiting⟩
  · by_cases lapsed : r.state = .lapsed ∧ r.lateHold = false
    · refine ⟨_, exec_lingerExpiry found lapsed.1 lapsed.2, fun _ _ => ?_, fun other => ?_⟩
      · subst target line'
        rw [freeRecord_idle unheld depth, ExchangeMonitor.removePair_eq sound.2 mem]
      · rcases other with other | other
        · exact absurd lapsed.1 other
        · exact absurd (lapsed.2.symm.trans other) Bool.false_ne_true
    · have other : r.state ≠ .lapsed ∨ r.lateHold = true := by
        by_cases state : r.state = .lapsed
        · exact .inr (Bool.eq_true_of_not_eq_false fun h => lapsed ⟨state, h⟩)
        · exact .inl state
      exact ⟨_, exec_lingerExpiry_other found other, fun a b => absurd ⟨a, b⟩ lapsed, fun _ => rfl⟩
  · have opened : r.isOpen = true := (isOpen_iff r).mpr (by rw [awaiting]; exact nofun)
    have fewer := lapsed_openCount sound.2 mem opened
    rw [target] at fewer
    have changed := (closeExchange_silent plain).trans (tableChanged_depth
      (s := (s.withNotices (s.notices.closing r .noAnswer)).withTable (s.exchanges.closed r .noAnswer)) unheld waits)
    have notices : s.notices.closing r .noAnswer = s.notices.post .exchangeClosed (some .trunk) (some line) (some 1) := by
      rw [NoticeQueue.closing, target, line']
      rfl
    refine ⟨_, exec_deadlineExpiry found awaiting, ?_⟩
    by_cases within : (s.exchanges.closed r .noAnswer).openCount .trunk ≤ d
    · rw [changed.trans (if_pos within), closed_noAnswer sound.2 mem, notices, State.setPort_port]
      exact ⟨rfl, fun _ => ⟨rfl, rfl⟩, fun more => absurd more (by omega)⟩
    · rw [changed.trans (if_neg within), closed_noAnswer sound.2 mem, notices]
      refine ⟨?_, fun few => absurd few (by omega), fun _ => ⟨rfl, rfl⟩⟩
      exact congrArg (fun v : State => (v.withNotices _).withTable _) (State.setPort_same s .trunk).symm
  · have changed : s.closeExchange r .noAnswer = u.decideHead h := by
      subst target line'
      have table : u = (s.withNotices (s.notices.closing r .noAnswer)).withTable (s.exchanges.closed r .noAnswer) := by
        rw [state, closed_noAnswer sound.2 mem]
        rfl
      rw [closeExchange_silent plain, ← table]
      unfold State.tableChanged
      rw [settleDepth_idle (s := u) (by rw [state]; exact depth),
        redecide_single (s := u) (p := h) fun q away => by rw [state]; exact fun k => away ((held q).mp k)]
      exact if_pos (by rw [state]; exact (held h).mpr rfl)
    have port : u.port h = s.port h := by rw [state]; rfl
    have scheduler : u.scheduler h = s.scheduler h := by rw [state]; rfl
    have entries : (u.scheduler h).queue = e :: rest := by rw [state]; exact queue
    refine ⟨_, exec_deadlineExpiry found awaiting, ?_⟩
    rw [changed]
    refine ⟨fun held' => ?_, fun free busy => ?_, fun free monitor driver waiting m opening => ?_⟩
    · have phase : { u.scheduler h with phase := .headHeld } = u.scheduler h := by
        rw [← show (u.scheduler h).phase = .headHeld by rw [scheduler]; exact (held h).mpr rfl]
      rw [decideHead_held entries held', phase]
      exact State.setPort_same u h
    · have lineBusy : (u.port h).lineFree = false := by
        rw [port, Bool.eq_false_iff]
        intro lineFree
        obtain ⟨monitor, driver⟩ := (PortState.lineFree_iff _).mp lineFree
        rcases busy with other | running
        · exact other monitor
        · exact Bool.false_ne_true (driver.symm.trans running)
      rw [decideHead_reserved entries free lineBusy, port, scheduler]
    · have lineFree : (u.port h).lineFree = true := by
        rw [port]
        exact (PortState.lineFree_iff _).mpr ⟨monitor, driver⟩
      have raised : raisedBy u.pool (u.port h).receiver = [] := raisedBy_of_waiting (by rw [port]; exact waiting)
      rcases opening with ⟨plainHead, rfl⟩ | ⟨q, asks, opening⟩
      · rw [decideHead_plain entries free lineFree plainHead, raised, List.append_nil, port]
        rfl
      · rw [decideHead_opens entries free lineFree asks (by rw [port]; exact opening), raised, List.append_nil, port]
        rfl

end Sys2Proof.Machine
end

section
/-! PROOFS. The admission of a completion (chapter 2): discarded, damaged, carried back to its origin, and forwarded. -/

namespace Sys2Proof.Machine

/-! ### A completion taken and counted (R27, R45) -/

/-- The state once the oldest completion of port `p` is taken and counted, `rest` behind it. -/
def State.admitted (s : State) (p : Port) (rest : List Completion) : State :=
  s.setPort p { s.port p with completions := rest, counters := (s.port p).counters.addRxTelegram }

/-- The same with the telegram counted as discarded. -/
def State.discarded (s : State) (p : Port) (rest : List Completion) : State :=
  s.setPort p { s.port p with
    completions := rest, counters := (s.port p).counters.addRxTelegram.addRxDiscarded }

/-- The pool once the receiver's reference to the completion's descriptor is given up, where it has one (R29). -/
def Completion.givenUp (c : Completion) (q : Pool) : Pool :=
  match c.desc with
  | some d => q.giveUp d
  | none => q

theorem givenUp_some {c : Completion} {d : DescNo} (h : c.desc = some d) (q : Pool) : c.givenUp q = q.giveUp d := by
  unfold Completion.givenUp
  rw [h]

theorem givenUp_none {c : Completion} (h : c.desc = none) (q : Pool) : c.givenUp q = q := by
  unfold Completion.givenUp
  rw [h]

theorem finishCompletion_eq (s : State) (c : Completion) : s.finishCompletion c = s.withPool (c.givenUp s.pool) := by
  unfold State.finishCompletion
  split
  · next d h => exact congrArg s.withPool (givenUp_some h s.pool).symm
  · next h => exact (congrArg s.withPool (givenUp_none h s.pool)).symm

theorem discardCompletion_eq (s : State) (p : Port) (c : Completion) : s.discardCompletion p c =
    (s.setPort p { s.port p with counters := (s.port p).counters.addRxDiscarded }).withPool (c.givenUp s.pool) := by
  unfold State.discardCompletion
  rw [finishCompletion_eq]
  rfl

theorem counters_taken {x : Counters} (h : x.rxTelegrams ≤ 65535) :
    x.addRxTelegram = { x with rxTelegrams := min 65535 (x.rxTelegrams + 1) } := by
  rw [← bump_eq_min h]
  rfl

theorem counters_discarded {x : Counters} (h : x.rxTelegrams ≤ 65535) (k : x.rxDiscarded ≤ 65535) :
    x.addRxTelegram.addRxDiscarded
      = { x with rxTelegrams := min 65535 (x.rxTelegrams + 1), rxDiscarded := min 65535 (x.rxDiscarded + 1) } := by
  rw [← bump_eq_min h, ← bump_eq_min k]
  rfl

section
variable {s : State} {p : Port} {c : Completion} {rest : List Completion}

theorem admitted_port : (s.admitted p rest).port p
    = { s.port p with completions := rest, counters := (s.port p).counters.addRxTelegram } := State.setPort_port _ _ _

theorem admitted_port_other {q : Port} (h : q ≠ p) : (s.admitted p rest).port q = s.port q := State.setPort_port_other _ _ h

theorem admitted_scheduler (q : Port) : (s.admitted p rest).scheduler q = s.scheduler q := by
  by_cases h : q = p
  · subst h
    rw [State.scheduler_def, admitted_port]
    rfl
  · rw [State.scheduler_def, admitted_port_other h]
    rfl

theorem admitted_unheld (h : NoHeadHeld s) : NoHeadHeld (s.admitted p rest) := fun q => by
  rw [admitted_scheduler]
  exact h q

/-- The filter reads a port's state, format and queue. -/
theorem filter_congr {t : State} {q : Port} (admin : (t.port q).admin = (s.port q).admin)
    (format : (t.port q).format = (s.port q).format) (queue : t.scheduler q = s.scheduler q) (line : Chr) (wide : Bool) :
    t.filter q line wide = s.filter q line wide := by
  have full : t.queueFull q = s.queueFull q := by
    cases q <;> (unfold State.queueFull; rw [queue])
  unfold State.filter
  rw [admin, format, full]

theorem admitted_filter (q : Port) (line : Chr) (wide : Bool) :
    (s.admitted p rest).filter q line wide = s.filter q line wide := by
  refine filter_congr ?_ ?_ (admitted_scheduler q) line wide
  all_goals
    by_cases h : q = p
    · subst h
      rw [admitted_port]
    · rw [admitted_port_other h]

theorem takeCompletion_whole {d : DescNo} (waits : (s.port p).completions = c :: rest) (desc : c.desc = some d)
    (whole : c.damage = none) : s.takeCompletion p = (s.admitted p rest).admitWhole p c d := by
  unfold State.takeCompletion
  rw [waits]
  dsimp only
  unfold State.classify State.count
  rw [desc, whole]
  dsimp only
  rw [State.onPort_onPort]
  rfl

theorem takeCompletion_damaged (waits : (s.port p).completions = c :: rest) (damaged : c.desc = none ∨ c.damage ≠ none) :
    s.takeCompletion p = ((((s.admitted p rest).reportDamaged p c).postDamage p c).discardCompletion p c) := by
  have counted : (s.onPort p fun x => { x with completions := rest }).count p Counters.addRxTelegram = s.admitted p rest := by
    unfold State.count
    rw [State.onPort_onPort]
    rfl
  unfold State.takeCompletion
  rw [waits]
  dsimp only
  unfold State.classify
  rw [counted]
  dsimp only
  split
  · next d desc whole =>
    rcases damaged with h | h
    · rw [desc] at h
      cases h
    · exact absurd whole h
  · rfl
  · rfl

/-- A telegram discarded right after it is counted, with the posts `n` and the table `m` of its decision. -/
theorem discard_admitted (n : NoticeQueue) (m : ExchangeMonitor) :
    (((s.admitted p rest).withNotices n).withTable m).discardCompletion p c
      = ((((s.discarded p rest).withPool (c.givenUp s.pool)).withNotices n).withTable m) := by
  rw [discardCompletion_eq]
  have port : (((s.admitted p rest).withNotices n).withTable m).port p
      = { s.port p with completions := rest, counters := (s.port p).counters.addRxTelegram } := admitted_port
  rw [port]
  exact congrArg (fun v : State => ((v.withPool (c.givenUp s.pool)).withNotices n).withTable m) (State.setPort_setPort s p _ _)

/-! ### The decision of an undamaged telegram (Table 2-2) -/

/-- The telegram is not a management request, and answers no exchange. -/
theorem admitWhole_routed {d : DescNo} (forwarded : ¬(p = .trunk ∧ c.address = s.mgmtAddress))
    (unanswered : ∀ r, s.exchanges.find p c.address = some r → r.state ≠ .answering) : s.admitWhole p c d =
      if s.agent.forwarding then s.routeTelegram p c d else s.discardCompletion p c := by
  unfold State.admitWhole
  rw [if_neg forwarded]
  split
  · next r found => exact if_neg (unanswered r found)
  · rfl

theorem admitWhole_reply {d : DescNo} {r : ExchangeRecord} (forwarded : ¬(p = .trunk ∧ c.address = s.mgmtAddress))
    (found : s.exchanges.find p c.address = some r) (answering : r.state = .answering) :
    s.admitWhole p c d = s.carryReply p c d r := by
  unfold State.admitWhole
  rw [if_neg forwarded, found]
  exact if_pos answering

theorem admitWhole_request {d : DescNo} (request : p = .trunk ∧ c.address = s.mgmtAddress) :
    s.admitWhole p c d = s.withAgent { s.agent with requests := s.agent.requests ++ [d] } := if_pos request

/-! ### A reply carried back (R33, R34, R60) -/

theorem carryReply_taken {d : DescNo} {r : ExchangeRecord}
    (passes : (s.freeRecord p c.address).filter r.origin r.originAddress c.wide = none) : s.carryReply p c d r =
      (((s.freeRecord p c.address).enqueue r.origin ⟨d, r.originAddress, none⟩)).finishCompletion c := by
  unfold State.carryReply
  dsimp only
  rw [offerTo_taken (e := ⟨d, r.originAddress, none⟩) passes]
  rfl

theorem carryReply_omitted {d : DescNo} {r : ExchangeRecord} {why : OmitReason}
    (left : (s.freeRecord p c.address).filter r.origin r.originAddress c.wide = some why) : s.carryReply p c d r =
      ((s.freeRecord p c.address).post .destOmitted (some r.origin) (some r.originAddress) (some why.code)).discardCompletion
        p c := by
  unfold State.carryReply
  dsimp only
  rw [offerTo_omitted (e := ⟨d, r.originAddress, none⟩) left]
  rfl

end

/-! ### The pool of a telegram queued (R29, R85) -/

/-- One entry names the descriptor besides the receiver, which then gives it up: HELD with one reference. -/
theorem Pool.queued_once {q : Pool} {d : DescNo} (refs : (q.descriptor d).refs = 1) :
    (q.addRef d).giveUp d = q.setDescriptor d { q.descriptor d with state := .held, refs := 1 } := by
  have two : ((q.addRef d).descriptor d).refs = 0 + 2 := by
    unfold Pool.addRef
    rw [Pool.setDescriptor_same]
    exact congrArg (· + 1) refs
  rw [Pool.giveUp_shared two]
  unfold Pool.addRef
  rw [Pool.setDescriptor_same, Pool.setDescriptor_again]

theorem OmitReason.code_eq (why : OmitReason) :
    why.code = (match why with | .portDown => 1 | .width => 2 | .queueFull => 3) := by
  cases why <;> rfl

theorem exec_telegramCompletion {s t : State} {p : Port} (h : s.takeCompletion p = t) :
    exec (.telegramCompletion p) s = .next t := congrArg Host.Outcome.next h

/-- Settles O24: the reply's record is freed, then its entry joins the origin's queue or is left out there. -/
theorem replyIsCarriedToOrigin : Obligations.ReplyIsCarriedToOrigin := by
  refine ⟨fun p s c rest d r waits desc whole general forwarded found answering sound passes away refs bounded unheld depth => ?_,
    fun p s c rest d r why waits desc whole forwarded found answering sound left taken dropped unheld depth => ?_⟩
  all_goals
    obtain ⟨mem, target, line⟩ := ExchangeMonitor.find_some found
    have decided := (takeCompletion_whole waits desc whole).trans (admitWhole_reply (s := s.admitted p rest) forwarded found answering)
    obtain ⟨m, table⟩ : ∃ m : ExchangeMonitor,
      m = { s.exchanges with records := s.exchanges.records.filter fun x => decide (x ≠ r) } := ⟨_, rfl⟩
    have freed : (s.admitted p rest).freeRecord p c.address = (s.admitted p rest).withTable m := by
      rw [freeRecord_idle (s := s.admitted p rest) (admitted_unheld unheld) depth, ← target, ← line, table,
        ← ExchangeMonitor.removePair_eq sound.2 mem]
      rfl
    rw [← table]
  · have carried := decided.trans (carryReply_taken (by rw [freed]; exact (admitted_filter r.origin _ _).trans passes))
    rw [finishCompletion_eq, givenUp_some desc, freed] at carried
    have origin : ((s.admitted p rest).withTable m).port r.origin = s.port r.origin := admitted_port_other away
    obtain ⟨others, -, -, pool, trunk, routes, notices, agent, -, -⟩ :=
      enqueue_spec ((s.admitted p rest).withTable m) r.origin ⟨d, r.originAddress, none⟩
    have joined := enqueue_joined (s := (s.admitted p rest).withTable m) (o := r.origin) (e := ⟨d, r.originAddress, none⟩)
      (by rw [origin]; exact passes_active passes) rfl
    have exchanges := enqueue_exchanges ((s.admitted p rest).withTable m) r.origin ⟨d, r.originAddress, none⟩ rfl
    have scheduler : ((s.admitted p rest).withTable m).scheduler r.origin = s.scheduler r.origin :=
      admitted_scheduler r.origin
    have queued := joined.queue
    have kept := joined.lineKept
    have behind := joined.behind
    have held : (State.enqueue ((s.admitted p rest).withTable m) r.origin ⟨d, r.originAddress, none⟩).pool.giveUp d
        = s.pool.setDescriptor d { s.pool.descriptor d with state := .held, refs := 1 } :=
      (congrArg (Pool.giveUp · d) pool).trans (Pool.queued_once refs)
    rw [held] at carried
    rw [scheduler] at queued
    rw [origin] at kept
    rw [scheduler, origin] at behind
    refine ⟨_, exec_telegramCompletion carried, ?_⟩
    generalize State.enqueue _ _ _ = u at others trunk routes notices agent queued kept behind exchanges ⊢
    refine ⟨exchanges, queued, kept, behind, Pool.setDescriptor_same _ _ _, fun k other => Pool.setDescriptor_other _ _ other,
      rfl, ?_, fun q one two => (others q two).trans (admitted_port_other one), routes, notices, agent, trunk⟩
    refine (others p (Ne.symm away)).trans ?_
    rw [← counters_taken bounded]
    exact admitted_port
  · have omitted := decided.trans (carryReply_omitted (by rw [freed]; exact (admitted_filter r.origin _ _).trans left))
    rw [freed] at omitted
    have gone := omitted.trans (discard_admitted _ _)
    refine ⟨_, exec_telegramCompletion gone, ?_, fun last => ?_⟩
    · rw [givenUp_some desc, OmitReason.code_eq]
      unfold State.discarded
      rw [counters_discarded taken dropped]
      rfl
    · change ((c.givenUp s.pool).descriptor d).state = _ ∧ ∀ k, k ≠ d → (c.givenUp s.pool).descriptor k = _
      rw [givenUp_some desc]
      exact ⟨by rw [Pool.giveUp_last last, Pool.release_descriptor_same]; rfl, fun k other => Pool.giveUp_other _ other⟩

end Sys2Proof.Machine
end

section
/-! PROOFS. Telegrams offered to no port (R30, R31, R36 to R40, R61, Tables 2-2, 2-3 and 3-6). -/

namespace Sys2Proof.Machine

/-! ### The lookup (R19, R37) -/

theorem RouteUnit.activeBank_eq {r : RouteUnit} {es : List RouteEntry} (h : es = if r.active = .first then r.first else r.second) :
    r.activeBank = es := by
  unfold RouteUnit.activeBank RouteUnit.bank
  subst h
  cases r.active <;> rfl

theorem lookup_miss_iff {r : RouteUnit} {p : Port} {a : Chr} :
    r.lookup p a = .miss ↔ ∀ x ∈ r.activeBank, ¬(x.arrival = p ∧ x.address = a) := by
  unfold RouteUnit.lookup
  cases found : findEntry r.activeBank p a with
  | none =>
    refine iff_of_true rfl fun x mem key => ?_
    exact (findEntry_none found x mem) ((RouteEntry.rank_eq_iff x p a).mpr key)
  | some e =>
    obtain ⟨mem, key⟩ := findEntry_some found
    refine iff_of_false (fun miss => ?_) fun none => none e mem key
    cases retired : e.retired with
    | true => simp [retired] at miss
    | false => simp [retired] at miss

theorem lookup_some {r : RouteUnit} {p : Port} {a : Chr} {x : RouteEntry} (found : findEntry r.activeBank p a = some x) :
    r.lookup p a = if x.retired then .retired else .live x r.active := by
  unfold RouteUnit.lookup
  rw [found]

theorem lookup_retired {r : RouteUnit} {p : Port} {a : Chr} (h : r.lookup p a = .retired) :
    ∃ x ∈ r.activeBank, x.arrival = p ∧ x.address = a ∧ x.retired = true := by
  cases found : findEntry r.activeBank p a with
  | none =>
    unfold RouteUnit.lookup at h
    rw [found] at h
    cases h
  | some x =>
    obtain ⟨mem, arrival, address⟩ := findEntry_some found
    refine ⟨x, mem, arrival, address, ?_⟩
    by_contra live
    rw [lookup_some found, if_neg live] at h
    cases h

section
variable {s : State} {p : Port} {c : Completion} {rest : List Completion}

/-! ### A telegram that reaches no queue -/

/-- A routed telegram that no entry forwards and the miss policy keeps from the trunk. -/
theorem routeTelegram_dropped {d : DescNo} (dropped : s.agent.forwarding = false ∨ s.routes.lookup p c.address = .retired
      ∨ s.routes.lookup p c.address = .miss ∧ (s.port p).format.miss ≠ .passToTrunk) :
    (if s.agent.forwarding then s.routeTelegram p c d else s.discardCompletion p c)
      = (s.withNotices (if s.agent.forwarding = true ∧ s.routes.lookup p c.address = .miss
            ∧ (s.port p).format.miss = .dropNote
          then s.notices.post .routeMiss (some p) (some c.address) none else s.notices)).discardCompletion p c := by
  by_cases on : s.agent.forwarding = true
  · rw [if_pos on]
    unfold State.routeTelegram
    rcases dropped with off | retired | ⟨miss, kept⟩
    · exact absurd (off.symm.trans on) Bool.false_ne_true
    · rw [retired, if_neg (fun h => by cases h.2.1)]
    · rw [miss]
      dsimp only
      unfold State.handleMiss
      cases policy : (s.port p).format.miss with
      | drop =>
        dsimp only
        rw [if_neg (fun h => by cases h.2.2)]
      | dropNote =>
        dsimp only
        rw [if_pos ⟨on, rfl, rfl⟩]
        rfl
      | passToTrunk => exact absurd policy kept
  · rw [if_neg on, if_neg (fun h => on h.1)]

theorem discard_noted (n : NoticeQueue) : ((s.admitted p rest).withNotices n).discardCompletion p c
    = ((s.discarded p rest).withPool (c.givenUp s.pool)).withNotices n := discard_admitted n s.exchanges

/-! ### Damaged telegrams -/

theorem postDamage_eq (s : State) (p : Port) (c : Completion) :
    s.postDamage p c = s.withNotices (c.damagePost p s.notices) := by
  unfold State.postDamage Completion.damagePost
  cases c.desc with
  | none => rfl
  | some d =>
    cases c.damage with
    | none => rfl
    | some x => cases x <;> rfl

/-- The notices with LATE_REPLY where the damage is LATE. -/
def Completion.latePost (c : Completion) (p : Port) (q : NoticeQueue) : NoticeQueue :=
  if c.damage = some .late then q.post .lateReply (some p) (some c.address) none else q

theorem reportDamaged_none (found : s.exchanges.find p c.address = none) :
    s.reportDamaged p c = s.withNotices (c.latePost p s.notices) := by
  unfold State.reportDamaged Completion.latePost
  dsimp only
  rw [found]
  dsimp only
  split
  · rfl
  · rfl

theorem reportDamaged_answering {r : ExchangeRecord} (found : s.exchanges.find p c.address = some r)
    (answering : r.state = .answering) : s.reportDamaged p c = s.closeExchange r .damaged := by
  unfold State.reportDamaged
  dsimp only
  rw [found]
  exact if_pos answering

theorem reportDamaged_late {r : ExchangeRecord} (found : s.exchanges.find p c.address = some r) (lapsed : r.state = .lapsed)
    (hold : r.lateHold = true) : s.reportDamaged p c =
      (s.withNotices (s.notices.post .lateReply (some p) (some c.address) none)).freeRecord p c.address := by
  unfold State.reportDamaged
  dsimp only
  rw [found]
  exact (if_neg (by rw [lapsed]; exact nofun)).trans (if_pos ⟨lapsed, hold⟩)

theorem reportDamaged_waits {r : ExchangeRecord} (found : s.exchanges.find p c.address = some r)
    (waits : r.state = .sending ∨ r.state = .awaiting ∨ r.state = .lapsed ∧ r.lateHold = false) :
    s.reportDamaged p c = s.withNotices (c.latePost p s.notices) := by
  have unanswered : r.state ≠ .answering := by
    rcases waits with h | h | ⟨h, _⟩ <;> (rw [h]; exact nofun)
  have unheld : ¬(r.state = .lapsed ∧ r.lateHold = true) := by
    rintro ⟨lapsed, hold⟩
    rcases waits with h | h | ⟨_, none⟩
    · rw [h] at lapsed; cases lapsed
    · rw [h] at lapsed; cases lapsed
    · exact Bool.false_ne_true (none.symm.trans hold)
  unfold State.reportDamaged Completion.latePost
  dsimp only
  rw [found]
  refine (if_neg unanswered).trans ((if_neg unheld).trans ?_)
  split
  · rfl
  · rfl

/-- What a damaged telegram leaves where the Exchange Monitor only posts and changes its table. -/
theorem takeCompletion_posted {n : NoticeQueue} {m : ExchangeMonitor} (waits : (s.port p).completions = c :: rest)
    (damaged : c.desc = none ∨ c.damage ≠ none)
    (reported : (s.admitted p rest).reportDamaged p c = ((s.admitted p rest).withNotices n).withTable m) :
    s.takeCompletion p = (((s.discarded p rest).withPool (c.givenUp s.pool)).withNotices (c.damagePost p n)).withTable m := by
  rw [takeCompletion_damaged waits damaged, reported, postDamage_eq]
  exact discard_admitted (c.damagePost p n) m

theorem takeCompletion_noted {n : NoticeQueue} (waits : (s.port p).completions = c :: rest)
    (damaged : c.desc = none ∨ c.damage ≠ none)
    (reported : (s.admitted p rest).reportDamaged p c = (s.admitted p rest).withNotices n) :
    s.takeCompletion p = ((s.discarded p rest).withPool (c.givenUp s.pool)).withNotices (c.damagePost p n) := by
  rw [takeCompletion_damaged waits damaged, reported, postDamage_eq]
  exact discard_noted (c.damagePost p n)

/-- The post that a damage gives where nothing stands on the pair (R61, Table 2-3). -/
def Damage.noticed (dm : Damage) (p : Port) (a : Chr) (q : NoticeQueue) : NoticeQueue :=
  match dm with
  | .parity => q.post .lineError (some p) (some a) (some 1)
  | .framing => q.post .lineError (some p) (some a) (some 2)
  | .brk => q.post .lineError (some p) (some a) (some 3)
  | .overlength => q.post .overlength (some p) (some a) none
  | .shortfall => q.post .poolExhausted (some p) (some a) none
  | .late => q.post .lateReply (some p) (some a) none

theorem damagePost_some {d : DescNo} {dm : Damage} (desc : c.desc = some d) (damage : c.damage = some dm) (q : NoticeQueue) :
    c.damagePost p (c.latePost p q) = dm.noticed p c.address q := by
  unfold Completion.damagePost Completion.latePost Damage.noticed
  rw [desc, damage]
  cases dm with
  | late => exact if_pos rfl
  | parity => exact congrArg (NoticeQueue.post · _ _ _ _) (if_neg nofun)
  | framing => exact congrArg (NoticeQueue.post · _ _ _ _) (if_neg nofun)
  | brk => exact congrArg (NoticeQueue.post · _ _ _ _) (if_neg nofun)
  | overlength => exact congrArg (NoticeQueue.post · _ _ _ _) (if_neg nofun)
  | shortfall => exact congrArg (NoticeQueue.post · _ _ _ _) (if_neg nofun)

theorem damagePost_none (desc : c.desc = none) (q : NoticeQueue) : c.damagePost p q = q := by
  unfold Completion.damagePost
  rw [desc]

end

/-- A stand-in reply stored and queued from a later state of the same step, whose origin port was as it is in `s`. -/
theorem StandInStored.since {s a u t : State} {r : ExchangeRecord} {o : CloseOutcome} {d : DescNo} {k : CellNo}
    (stored : StandInStored a u r o d k) (start : a.port r.origin = s.port r.origin) (agent : a.agent.settings = s.agent.settings)
    (port : t.port r.origin = u.port r.origin) (table : t.exchanges = u.exchanges) (cells : t.pool.cells = u.pool.cells)
    (descriptor : t.pool.descriptor d = u.pool.descriptor d) (wf : CellsCanonical a)
    (settings : s.agent.settings.inRanges = true) : StandInQueued s t r o d k := by
  obtain ⟨telegram, held, -, -, -⟩ := stored.queued wf (agent ▸ settings)
  have joined : Joined s r.origin (r.replyEntry d) t := by
    have scheduler : a.scheduler r.origin = s.scheduler r.origin := congrArg PortState.scheduler start
    refine ⟨fun behind => ?_, fun head => ?_⟩
    · rw [port, stored.joined.behind (scheduler ▸ behind), start]
    · obtain ⟨q, now⟩ := stored.joined.head (scheduler ▸ head)
      refine ⟨q, ?_⟩
      unfold State.deep at now ⊢
      rw [port, now, start, table]
  refine ⟨?_, by rw [descriptor]; exact held, joined.queue, joined.behind, joined.decided⟩
  rw [← agent, ← telegram]
  exact Pool.telegram_congr cells (congrArg Descriptor.length descriptor) (congrArg Descriptor.cells descriptor)

/-- A damaged telegram whose exchange closes with a stand-in reply taken. -/
theorem takeCompletion_answered {s : State} {p : Port} {c : Completion} {rest : List Completion} {r : ExchangeRecord}
    {d : DescNo} {k : CellNo} (waits : (s.port p).completions = c :: rest) (damaged : c.desc = none ∨ c.damage ≠ none)
    (found : s.exchanges.find p c.address = some r) (answering : r.state = .answering) (standIn : r.standIn = true)
    (away : r.origin ≠ p) (wf : CellsCanonical s) (settings : s.agent.settings.inRanges = true) (other : c.desc ≠ some d)
    (taken : StandInTaken s r .damaged d k) (unheld : NoHeadHeld s) (depth : s.trunk.pendingDepth = none) :
    StandInQueued s (s.takeCompletion p) r .damaged d k
      ∧ (s.takeCompletion p).port p = { s.port p with
          completions := rest, counters := (s.port p).counters.addRxTelegram.addRxDiscarded }
      ∧ (s.takeCompletion p).exchanges = s.exchanges.closed r .damaged
      ∧ (s.takeCompletion p).notices = c.damagePost p (s.notices.closing r .damaged)
      ∧ (s.takeCompletion p).routes = s.routes ∧ (s.takeCompletion p).agent = s.agent := by
  have offered : StandInTaken (s.admitted p rest) r .damaged d k :=
    ⟨taken.descriptor, taken.cell, (admitted_filter _ _ _).trans taken.offered⟩
  obtain ⟨stored, notices, table⟩ := closeExchange_taken standIn offered (admitted_unheld unheld) depth
  rw [takeCompletion_damaged waits damaged, reportDamaged_answering (s := s.admitted p rest) found answering, postDamage_eq,
    discardCompletion_eq]
  generalize (s.admitted p rest).closeExchange r .damaged = u at stored notices table ⊢
  obtain ⟨n, m, x, shape⟩ := stored.state
  have port : u.port p = (s.admitted p rest).port p := by
    rw [shape]
    exact State.setPort_port_other _ _ (Ne.symm away)
  have cells : (c.givenUp u.pool).cells = u.pool.cells := by
    unfold Completion.givenUp
    split
    · exact Pool.giveUp_cells _ _
    · rfl
  have descriptor : (c.givenUp u.pool).descriptor d = u.pool.descriptor d := by
    unfold Completion.givenUp
    split
    · next e desc => exact Pool.giveUp_other _ fun same => other (desc.trans (congrArg some same.symm))
    · rfl
  refine ⟨stored.since (admitted_port_other away) rfl (State.setPort_port_other _ _ away) rfl cells descriptor wf settings,
    ?_, table, congrArg (c.damagePost p) notices, ?_, ?_⟩
  · refine (State.setPort_port (u.withNotices (c.damagePost p u.notices)) p _).trans ?_
    rw [show (u.withNotices (c.damagePost p u.notices)).port p = u.port p from rfl, port, admitted_port]
  · rw [shape]; rfl
  · rw [shape]; rfl

/-- Settles O23: the lookup, the drops, the damages by what the Exchange Monitor does of them, and the management request. -/
theorem telegramsNotForwarded : Obligations.TelegramsNotForwarded := by
  refine ⟨fun r p a es bank => ?_, fun p s c rest d waits desc whole forwarded unanswered dropped taken lost => ?_,
    fun p s c rest d dm waits desc damage found taken lost => ?_, fun s c rest d waits desc whole address taken => ?_,
    fun p s c rest waits desc whole found taken lost => ?_,
    fun p s c rest r waits damaged found sound unheld depth taken lost => ?_⟩
  · rw [← RouteUnit.activeBank_eq bank]
    exact ⟨lookup_miss_iff, lookup_retired⟩
  · have format : ((s.admitted p rest).port p).format = (s.port p).format := by rw [admitted_port]
    have decided := (takeCompletion_whole waits desc whole).trans ((admitWhole_routed (s := s.admitted p rest) forwarded
      unanswered).trans (routeTelegram_dropped (d := d) (by rw [format]; exact dropped)))
    rw [format] at decided
    refine ⟨_, exec_telegramCompletion (decided.trans (discard_noted _)), ?_⟩
    rw [givenUp_some desc]
    unfold State.discarded
    rw [counters_discarded taken lost]
    rfl
  · have reported := reportDamaged_none (s := s.admitted p rest) (c := c) (p := p) found
    refine ⟨_, exec_telegramCompletion (takeCompletion_noted waits (.inr (by rw [damage]; exact nofun))
      reported), ?_⟩
    rw [givenUp_some desc, show (s.admitted p rest).notices = s.notices from rfl, damagePost_some desc damage]
    unfold State.discarded
    rw [counters_discarded taken lost]
    cases dm with
    | parity => rfl
    | framing => rfl
    | brk => rfl
    | overlength => rfl
    | shortfall => rfl
    | late => rfl
  · have decided := (takeCompletion_whole waits desc whole).trans (admitWhole_request (s := s.admitted .trunk rest) ⟨rfl, address⟩)
    refine ⟨_, exec_telegramCompletion decided, ?_⟩
    unfold State.admitted
    rw [counters_taken taken]
    rfl
  · have reported := reportDamaged_none (s := s.admitted p rest) (c := c) (p := p) found
    refine exec_telegramCompletion ((takeCompletion_noted waits (.inl desc) reported).trans ?_)
    rw [givenUp_none desc, damagePost_none desc]
    unfold Completion.latePost State.discarded
    rw [if_neg (by rw [whole]; exact nofun), counters_discarded taken lost]
    rfl
  · obtain ⟨mem, target, line⟩ := ExchangeMonitor.find_some found
    have removed : s.exchanges.removePair p c.address
        = { s.exchanges with records := s.exchanges.records.filter fun x => decide (x ≠ r) } := by
      rw [← target, ← line]
      exact ExchangeMonitor.removePair_eq sound.2 mem
    have closing : s.notices.closing r .damaged = s.notices.post .exchangeClosed (some p) (some c.address) (some 2) := by
      rw [← target, ← line]
      rfl
    have closed : s.exchanges.closed r .damaged
        = { s.exchanges with records := s.exchanges.records.filter fun x => decide (x ≠ r) } := by
      rw [← removed, ← target, ← line]
      rfl
    refine ⟨s.takeCompletion p, rfl, fun quiet => ?_, fun stays => ?_,
      fun d k answering standIn away wf settings other offered => ?_⟩
    · have posted : (s.admitted p rest).reportDamaged p c = ((s.admitted p rest).withNotices
          (if r.state = .answering then s.notices.post .exchangeClosed (some p) (some c.address) (some 2)
           else s.notices.post .lateReply (some p) (some c.address) none)).withTable
          { s.exchanges with records := s.exchanges.records.filter fun x => decide (x ≠ r) } := by
        rcases quiet with ⟨answering, plain⟩ | ⟨lapsed, hold⟩
        · rw [reportDamaged_answering (s := s.admitted p rest) found answering, if_pos answering, ← closing, ← closed]
          exact closeExchange_plain (s := s.admitted p rest) plain (admitted_unheld unheld) depth
        · rw [reportDamaged_late (s := s.admitted p rest) found lapsed hold,
            if_neg (show ¬r.state = .answering by rw [lapsed]; exact nofun), ← removed]
          exact freeRecord_idle (s := (s.admitted p rest).withNotices _) (admitted_unheld unheld) depth
      rw [takeCompletion_posted waits damaged posted]
      unfold State.discarded
      rw [counters_discarded taken lost]
      rfl
    · rw [takeCompletion_noted waits damaged (reportDamaged_waits (s := s.admitted p rest) found stays)]
      unfold State.discarded
      rw [counters_discarded taken lost]
      rfl
    · obtain ⟨queued, port, table, notices, routes, agent⟩ := takeCompletion_answered waits damaged found answering standIn
        away wf settings other offered unheld depth
      refine ⟨queued, congrArg PortState.completions port, ?_, table.trans closed, notices.trans (congrArg _ closing), routes, agent⟩
      rw [port, ← counters_discarded taken lost]

end Sys2Proof.Machine
end

section
/-! PROOFS. Telegrams forwarded (R41 to R46): the offer to one destination, to several, and to the trunk on a miss. -/

namespace Sys2Proof.Machine

/-! ### The route of an undamaged telegram -/

section
variable {s : State} {p : Port} {c : Completion} {rest : List Completion} {d : DescNo}

/-- A telegram that is routed while forwarding is ON. -/
theorem takeCompletion_routed (waits : (s.port p).completions = c :: rest) (desc : c.desc = some d) (whole : c.damage = none)
    (forwarded : ¬(p = .trunk ∧ c.address = s.mgmtAddress))
    (unanswered : ∀ r, s.exchanges.find p c.address = some r → r.state ≠ .answering) (on : s.agent.forwarding = true) :
    s.takeCompletion p = (s.admitted p rest).routeTelegram p c d :=
  (takeCompletion_whole waits desc whole).trans ((admitWhole_routed (s := s.admitted p rest) forwarded unanswered).trans
    (if_pos on))

theorem routeTelegram_live {x : RouteEntry} {b : BankId} (live : s.routes.lookup p c.address = .live x b) :
    s.routeTelegram p c d = s.handleHit p c d x b := by
  unfold State.routeTelegram
  rw [live]

theorem routeTelegram_miss (miss : s.routes.lookup p c.address = .miss) : s.routeTelegram p c d = s.handleMiss p c d := by
  unfold State.routeTelegram
  rw [miss]

/-- The queue entry of a LIVE hit (R43, R44). -/
def RouteEntry.queueEntry (x : RouteEntry) (p : Port) (c : Completion) (d : DescNo) : QueueEntry :=
  { desc := d, line := x.egress.getD c.address, request := x.exchangeRequest p c.address }

/-- The state with a count report sent (R46). -/
def State.reported (s : State) (b : BankId) (p : Port) (a : Chr) : State :=
  s.withRoutes { s.routes with countReports := s.routes.countReports ++ [⟨b, p, a⟩] }

theorem handleHit_taken {x : RouteEntry} {b : BankId}
    (taken : (s.offerAll (x.queueEntry p c d) c.wide x.destinationList).2 = true) : s.handleHit p c d x b =
      ((s.offerAll (x.queueEntry p c d) c.wide x.destinationList).1.finishCompletion c).reported b p c.address := by
  unfold State.handleHit State.endOffer
  dsimp only
  unfold RouteEntry.queueEntry at taken
  rw [taken]
  rfl

theorem handleHit_refused {x : RouteEntry} {b : BankId}
    (refused : (s.offerAll (x.queueEntry p c d) c.wide x.destinationList).2 = false) : s.handleHit p c d x b =
      (s.offerAll (x.queueEntry p c d) c.wide x.destinationList).1.discardCompletion p c := by
  unfold State.handleHit State.endOffer
  dsimp only
  unfold RouteEntry.queueEntry at refused
  rw [refused]
  rfl

theorem offerAll_single (e : QueueEntry) (wide : Bool) (q : Port) :
    s.offerAll e wide [q] = ((s.offerTo q e wide).1, (s.offerTo q e wide).2) := by
  unfold State.offerAll State.offerAll
  simp

end

/-! ### The offer to several destinations -/

/-- The notices of an offer to the destinations `l`, as their filters answer (R41). -/
def omittedPosts (s : State) (line : Chr) (wide : Bool) (l : List Port) (n : NoticeQueue) : NoticeQueue :=
  l.foldl (fun n q =>
    match s.filter q line wide with
    | some why => n.post .destOmitted (some q) (some line) (some why.code)
    | none => n) n

/-- The destinations of `l` that take an offer. -/
def takers (s : State) (line : Chr) (wide : Bool) (l : List Port) : List Port :=
  l.filter fun q => decide (s.filter q line wide = none)

section
variable {s t : State} {line : Chr} {wide : Bool} {p : Port} {l : List Port}

theorem takers_congr (h : ∀ q ∈ l, t.filter q line wide = s.filter q line wide) : takers t line wide l = takers s line wide l :=
  List.filter_congr fun q mem => by rw [h q mem]

theorem omittedPosts_congr (h : ∀ q ∈ l, t.filter q line wide = s.filter q line wide) (n : NoticeQueue) :
    omittedPosts t line wide l n = omittedPosts s line wide l n := by
  unfold omittedPosts
  refine List.foldl_ext _ _ n fun n q mem => ?_
  rw [h q mem]

theorem takers_omitted {why : OmitReason} (h : s.filter p line wide = some why) :
    takers s line wide (p :: l) = takers s line wide l :=
  List.filter_cons_of_neg (by rw [h]; simp)

theorem takers_taken (h : s.filter p line wide = none) : takers s line wide (p :: l) = p :: takers s line wide l :=
  List.filter_cons_of_pos (decide_eq_true h)

theorem omittedPosts_omitted {why : OmitReason} (h : s.filter p line wide = some why) (n : NoticeQueue) :
    omittedPosts s line wide (p :: l) n
      = omittedPosts s line wide l (n.post .destOmitted (some p) (some line) (some why.code)) := by
  unfold omittedPosts
  rw [List.foldl_cons, h]

theorem omittedPosts_taken (h : s.filter p line wide = none) (n : NoticeQueue) :
    omittedPosts s line wide (p :: l) n = omittedPosts s line wide l n := by
  unfold omittedPosts
  rw [List.foldl_cons, h]

theorem mem_takers {q : Port} (h : q ∈ takers s line wide l) : q ∈ l := (List.mem_filter.mp h).1

end

/-- What the offer of the plain entry `e` to the destinations `l` leaves. -/
structure Offered (s t : State) (e : QueueEntry) (wide : Bool) (l : List Port) : Prop where
  takes : ∀ q ∈ takers s e.line wide l, (t.scheduler q).queue = (s.scheduler q).queue ++ [e] ∧ LineKept (s.port q) (t.port q)
  others : ∀ q, q ∉ takers s e.line wide l → t.port q = s.port q
  notices : t.notices = omittedPosts s e.line wide l s.notices
  descriptor : t.pool.descriptor e.desc = { s.pool.descriptor e.desc with
    refs := (s.pool.descriptor e.desc).refs + (takers s e.line wide l).length }
  descriptors : ∀ k, k ≠ e.desc → t.pool.descriptor k = s.pool.descriptor k
  pool : t.pool.free = s.pool.free ∧ t.pool.cells = s.pool.cells
  exchanges : t.exchanges = s.exchanges
  blocks : t.trunk = s.trunk ∧ t.routes = s.routes ∧ t.agent = s.agent
  refused : takers s e.line wide l = [] → t = s.withNotices (omittedPosts s e.line wide l s.notices)

theorem offerAll_offered {e : QueueEntry} (plain : e.request = none) (wide : Bool) {l : List Port} (distinct : l.Nodup) :
    ∀ s : State, Offered s (s.offerAll e wide l).1 e wide l
      ∧ (s.offerAll e wide l).2 = !(takers s e.line wide l).isEmpty := by
  induction l with
  | nil =>
    intro s
    exact ⟨⟨nofun, fun _ _ => rfl, rfl, rfl, fun _ _ => rfl, ⟨rfl, rfl⟩, rfl, ⟨rfl, rfl, rfl⟩, fun _ => rfl⟩, rfl⟩
  | cons p l ih =>
    intro s
    obtain ⟨out, distinct⟩ := List.nodup_cons.mp distinct
    have step : s.offerAll e wide (p :: l) = (((s.offerTo p e wide).1.offerAll e wide l).1,
        (s.offerTo p e wide).2 || ((s.offerTo p e wide).1.offerAll e wide l).2) := rfl
    rw [step]
    cases answer : s.filter p e.line wide with
    | some why =>
      rw [offerTo_omitted answer]
      have same : ∀ q ∈ l, (s.post .destOmitted (some p) (some e.line) (some why.code)).filter q e.line wide
          = s.filter q e.line wide := fun q _ => filter_congr rfl rfl rfl _ _
      obtain ⟨o, any⟩ := ih distinct (s.post .destOmitted (some p) (some e.line) (some why.code))
      dsimp only
      obtain ⟨takes, others, notices, descriptor, descriptors, pool, exchanges, blocks, refused⟩ := o
      rw [takers_congr same] at takes others any descriptor refused
      rw [omittedPosts_congr same] at notices refused
      rw [takers_omitted answer, any]
      refine ⟨⟨?_, ?_, ?_, ?_, descriptors, pool, exchanges, blocks, ?_⟩, Bool.false_or _⟩
      · rw [takers_omitted answer]
        exact takes
      · rw [takers_omitted answer]
        exact others
      · rw [notices, omittedPosts_omitted answer]
        rfl
      · rw [takers_omitted answer]
        exact descriptor
      · rw [takers_omitted answer, omittedPosts_omitted answer]
        exact refused
    | none =>
      rw [offerTo_taken answer]
      obtain ⟨kept, line, queue, pooled, trunk, routes, posts, agent, -, -⟩ := enqueue_spec s p e
      have table := enqueue_exchanges s p e plain
      obtain ⟨o, any⟩ := ih distinct (s.enqueue p e)
      generalize s.enqueue p e = u at *
      have away (q : Port) (mem : q ∈ l) : q ≠ p := fun h => out (h ▸ mem)
      have same : ∀ q ∈ l, u.filter q e.line wide = s.filter q e.line wide := fun q mem =>
        filter_congr (congrArg _ (kept q (away q mem))) (congrArg _ (kept q (away q mem)))
          (congrArg PortState.scheduler (kept q (away q mem))) _ _
      dsimp only
      obtain ⟨takes, others, notices, descriptor, descriptors, pool, exchanges, blocks, refused⟩ := o
      rw [takers_congr same] at takes others descriptor
      rw [omittedPosts_congr same] at notices
      have outside : p ∉ takers s e.line wide l := fun h => out (mem_takers h)
      refine ⟨⟨?_, ?_, ?_, ?_, fun k other => ?_, ?_, exchanges.trans table,
        ⟨blocks.1.trans trunk, blocks.2.1.trans routes, blocks.2.2.trans agent⟩,
        fun none => by rw [takers_taken answer] at none; cases none⟩, ?_⟩
      · rw [takers_taken answer]
        intro q mem
        rcases List.mem_cons.mp mem with rfl | mem
        · rw [State.scheduler_def, others q outside]
          exact ⟨queue, line⟩
        · have port := kept q (away q (mem_takers mem))
          have now := takes q mem
          rw [State.scheduler_def u, port] at now
          exact now
      · rw [takers_taken answer]
        intro q out'
        obtain ⟨other, out'⟩ := not_or.mp (mt List.mem_cons.mpr out')
        exact (others q out').trans (kept q other)
      · rw [notices, omittedPosts_taken answer, posts]
      · rw [descriptor, takers_taken answer, pooled, Pool.addRef, Pool.setDescriptor_same, List.length_cons]
        dsimp only
        rw [Nat.add_assoc, Nat.add_comm 1]
      · rw [descriptors k other, pooled]
        exact Pool.setDescriptor_other _ _ other
      · rw [pool.1, pool.2, pooled]
        exact ⟨rfl, rfl⟩
      · rw [takers_taken answer]
        rfl

/-- The pool once `n` entries besides the receiver name the descriptor, and the receiver gives it up. -/
theorem Pool.queued_shared {q u : Pool} {d : DescNo} {n : Nat} (refs : (q.descriptor d).refs = 1)
    (named : u.descriptor d = { q.descriptor d with refs := (q.descriptor d).refs + (n + 1) }) :
    u.giveUp d = u.setDescriptor d { q.descriptor d with state := .held, refs := n + 1 } := by
  have more : (u.descriptor d).refs = n + 2 := by
    rw [named, refs]
    exact Nat.add_comm 1 (n + 1)
  rw [Pool.giveUp_shared more, named]

/-- The lookup of a key that one entry of the active bank carries. -/
theorem lookup_only {r : RouteUnit} {p : Port} {a : Chr} {x : RouteEntry} (mem : x ∈ r.activeBank) (arrival : x.arrival = p)
    (address : x.address = a) (only : ∀ y ∈ r.activeBank, y.arrival = p → y.address = a → y = x) :
    r.lookup p a = if x.retired then .retired else .live x r.active := by
  cases found : findEntry r.activeBank p a with
  | none => exact absurd ((RouteEntry.rank_eq_iff x p a).mpr ⟨arrival, address⟩) (findEntry_none found x mem)
  | some y =>
    obtain ⟨mem', arrival', address'⟩ := findEntry_some found
    rw [← only y mem' arrival' address']
    exact lookup_some found

section
variable {s : State} {p : Port} {c : Completion} {rest : List Completion} {d : DescNo}

theorem handleMiss_trunk (policy : (s.port p).format.miss = .passToTrunk) : s.handleMiss p c d =
    if c.address = s.mgmtAddress ∨ p = .trunk then s.discardCompletion p c
    else State.endOffer (s.offerTo .trunk { desc := d, line := c.address, request := none } c.wide) p c := by
  unfold State.handleMiss
  rw [policy]

/-- The trunk in service leaves a telegram out for want of room alone. -/
theorem filter_trunk (service : TrunkInService s) (line : Chr) (wide : Bool) :
    s.filter .trunk line wide = if s.queueFull .trunk then some .queueFull else none := by
  obtain ⟨active, ok, -⟩ := service
  unfold FormatRecord.trunkOk at ok
  rw [Bool.and_eq_true, decide_eq_true_eq] at ok
  exact filter_fits active (.inl ok.1)

theorem queueFull_trunk : s.queueFull .trunk = true ↔
    15 ≤ ((s.scheduler .trunk).queue.filter fun y => decide (y.desc ≠ 0)).length := by
  rw [queueFull_iff]
  exact ⟨fun h => h.elim And.right fun k => absurd rfl k.1, fun h => .inl ⟨rfl, h⟩⟩

/-- One entry of a taken telegram joins port `dest`, another port than its own. -/
theorem enqueue_admitted {dest : Port} {e : QueueEntry} (desc : c.desc = some d) (named : e.desc = d) (away : dest ≠ p)
    (refs : (s.pool.descriptor d).refs = 1) {t : State}
    (went : t = ((s.admitted p rest).enqueue dest e).finishCompletion c) :
    (t.scheduler dest).queue = (s.scheduler dest).queue ++ [e] ∧ LineKept (s.port dest) (t.port dest)
      ∧ t.pool.descriptor d = { s.pool.descriptor d with state := .held, refs := 1 }
      ∧ (∀ k, k ≠ d → t.pool.descriptor k = s.pool.descriptor k) ∧ t.pool.free = s.pool.free ∧ t.pool.cells = s.pool.cells
      ∧ t.port p = { s.port p with completions := rest, counters := (s.port p).counters.addRxTelegram }
      ∧ (∀ q, q ≠ p → q ≠ dest → t.port q = s.port q) ∧ BlocksKept s t := by
  obtain ⟨others, line, queue, pool, trunk, routes, notices, agent, straps, pending⟩ := enqueue_spec (s.admitted p rest) dest e
  have held : ((s.admitted p rest).enqueue dest e).pool.giveUp d
      = s.pool.setDescriptor d { s.pool.descriptor d with state := .held, refs := 1 } := by
    rw [pool, named]
    exact Pool.queued_once refs
  rw [finishCompletion_eq, givenUp_some desc, held] at went
  subst went
  rw [admitted_scheduler] at queue
  rw [admitted_port_other away] at line
  exact ⟨queue, line, Pool.setDescriptor_same _ _ _, fun k other => Pool.setDescriptor_other _ _ other, rfl, rfl,
    (others p (Ne.symm away)).trans admitted_port, fun q one two => (others q two).trans (admitted_port_other one),
    ⟨trunk, routes, notices, agent, straps, pending⟩⟩

end

/-- Settles O22: the lookup, then a hit by its destinations, then a miss that passes to the trunk. -/
theorem liveHitIsQueued : Obligations.LiveHitIsQueued := by
  refine ⟨fun r p a es bank => ?_,
    fun p dest s c rest d x b why waits desc whole forwarded unanswered on live single left taken lost => ?_,
    fun p dest s c rest d x b waits desc whole general forwarded unanswered on live single away passes refs taken => ?_,
    fun p s c rest d x b line taking waits desc whole general forwarded unanswered on live plain outside lines takes refs taken
      lost => ?_,
    fun p s c rest d waits desc whole general branch unanswered on miss policy service refs taken lost => ?_⟩
  · rw [← RouteUnit.activeBank_eq bank]
    exact ⟨lookup_miss_iff.mpr, fun x mem arrival address only => lookup_only mem arrival address only⟩
  · have hit := (takeCompletion_routed waits desc whole forwarded unanswered on).trans
      (routeTelegram_live (s := s.admitted p rest) (d := d) live)
    have omitted := offerTo_omitted (e := x.queueEntry p c d) ((admitted_filter (s := s) (p := p) (rest := rest) dest _ _).trans left)
    have gone := handleHit_refused (s := s.admitted p rest) (x := x) (p := p) (c := c) (d := d) (b := b)
      (by rw [single, offerAll_single, omitted])
    rw [single, offerAll_single, omitted] at gone
    refine ⟨_, exec_telegramCompletion (hit.trans (gone.trans (discard_noted _))), ?_⟩
    rw [givenUp_some desc, OmitReason.code_eq]
    unfold State.discarded
    rw [counters_discarded taken lost]
    rfl
  · have hit := (takeCompletion_routed waits desc whole forwarded unanswered on).trans
      (routeTelegram_live (s := s.admitted p rest) (d := d) live)
    have offered := offerTo_taken (e := x.queueEntry p c d) ((admitted_filter (s := s) (p := p) (rest := rest) dest _ _).trans passes)
    have went := handleHit_taken (s := s.admitted p rest) (x := x) (p := p) (c := c) (d := d) (b := b)
      (by rw [single, offerAll_single, offered])
    rw [single, offerAll_single, offered] at went
    obtain ⟨queue, line, descriptor, descriptors, free, cells, port, others, trunk, routes, notices, agent, -, -⟩ :=
      enqueue_admitted (e := x.queueEntry p c d) desc rfl away refs rfl
    have table : (s.scheduler dest).queue ≠ [] → (((s.admitted p rest).enqueue dest (x.queueEntry p c d)).finishCompletion
        c).exchanges = s.exchanges := fun behind => by
      rw [finishCompletion_eq, enqueue_behind (by rw [admitted_scheduler]; exact behind)]
      rfl
    rw [counters_taken taken] at port
    exact ⟨_, exec_telegramCompletion (hit.trans went), queue, descriptor, descriptors, free, cells, port,
      congrArg (fun r : RouteUnit => ({ r with countReports := r.countReports ++ [⟨b, p, c.address⟩] } : RouteUnit)) routes, line, others,
      notices, agent, trunk, table⟩
  · subst lines
    have takes : taking = takers s (x.egress.getD c.address) c.wide x.destinationList := takes
    have hit := (takeCompletion_routed waits desc whole forwarded unanswered on).trans
      (routeTelegram_live (s := s.admitted p rest) (d := d) live)
    have distinct : x.destinationList.Nodup := (by decide : Port.all.Nodup).filter _
    have entry : x.queueEntry p c d = ⟨d, x.egress.getD c.address, none⟩ := by
      unfold RouteEntry.queueEntry RouteEntry.exchangeRequest
      rw [plain]
      rfl
    have same : ∀ q ∈ x.destinationList, (s.admitted p rest).filter q (x.egress.getD c.address) c.wide
        = s.filter q (x.egress.getD c.address) c.wide := fun q _ => admitted_filter q _ _
    obtain ⟨⟨queued, others, notices, descriptor, descriptors, pool, exchanges, blocks, refused⟩, any⟩ :=
      offerAll_offered (e := ⟨d, x.egress.getD c.address, none⟩) rfl c.wide distinct (s.admitted p rest)
    have outs : p ∉ taking := fun h => outside (mem_takers (takes ▸ h))
    rw [takers_congr same, ← takes] at queued others descriptor any refused
    rw [omittedPosts_congr same] at notices refused
    cases taking with
    | nil =>
      have gone := handleHit_refused (s := s.admitted p rest) (x := x) (p := p) (c := c) (d := d) (b := b)
        (by rw [entry]; exact any)
      rw [entry, refused rfl] at gone
      refine ⟨_, exec_telegramCompletion (hit.trans (gone.trans (discard_noted _))), nofun,
        fun q other _ => State.setPort_port_other _ _ other, ?_, rfl, fun h => absurd rfl h,
        fun _ => ⟨givenUp_some desc _, rfl⟩, rfl, rfl, rfl⟩
      rw [if_pos rfl, ← counters_discarded taken lost]
      exact State.setPort_port _ _ _
    | cons y ys =>
      have went := handleHit_taken (s := s.admitted p rest) (x := x) (p := p) (c := c) (d := d) (b := b)
        (by rw [entry, any]; rfl)
      rw [entry, finishCompletion_eq, givenUp_some desc] at went
      refine ⟨_, exec_telegramCompletion (hit.trans went), ?_⟩
      generalize State.offerAll _ _ _ _ = o at *
      have held := Pool.queued_shared (q := s.pool) refs descriptor
      have away (q : Port) (mem : q ∈ y :: ys) : q ≠ p := fun h => outs (h ▸ mem)
      refine ⟨fun q mem => ?_, fun q other out => (others q out).trans (admitted_port_other other), ?_, notices, fun _ => ?_, nofun,
        exchanges, blocks.2.2, blocks.1⟩
      · obtain ⟨queue, line⟩ := queued q mem
        rw [admitted_scheduler] at queue
        rw [admitted_port_other (away q mem)] at line
        exact ⟨queue, line⟩
      · rw [if_neg nofun, ← counters_taken taken]
        exact (others p outs).trans admitted_port
      · change (o.1.pool.giveUp d).descriptor d = _ ∧ (∀ k, k ≠ d → (o.1.pool.giveUp d).descriptor k = _)
          ∧ (o.1.pool.giveUp d).free = _ ∧ (o.1.pool.giveUp d).cells = _ ∧ _
        rw [held]
        refine ⟨Pool.setDescriptor_same _ _ _, fun k other => (Pool.setDescriptor_other _ _ other).trans (descriptors k other),
          pool.1, pool.2, ?_⟩
        exact congrArg (fun r : RouteUnit => ({ r with countReports := r.countReports ++ [⟨b, p, c.address⟩] } : RouteUnit))
          blocks.2.1
  · have format : ((s.admitted p rest).port p).format.miss = .passToTrunk := by rw [admitted_port]; exact policy
    have missed := (takeCompletion_routed waits desc whole (fun h => branch h.1) unanswered on).trans
      ((routeTelegram_miss (s := s.admitted p rest) (d := d) miss).trans (handleMiss_trunk format))
    have answer := (admitted_filter (s := s) (p := p) (rest := rest) .trunk c.address c.wide).trans
      (filter_trunk service c.address c.wide)
    refine ⟨_, rfl, fun ordinary room => ?_, fun kept => ?_⟩
    · have full : ¬s.queueFull .trunk = true := fun h => absurd (queueFull_trunk.mp h) (Nat.not_le.mpr room)
      rw [if_neg full] at answer
      have offered := offerTo_taken (e := ⟨d, c.address, none⟩) answer
      have went := missed.trans ((if_neg (not_or.mpr ⟨ordinary, branch⟩)).trans
        (congrArg (State.endOffer · p c) offered))
      obtain ⟨queue, line, descriptor, descriptors, free, cells, port, others, blocks⟩ :=
        enqueue_admitted (e := ⟨d, c.address, none⟩) desc rfl (Ne.symm branch) refs went
      rw [counters_taken taken] at port
      refine ⟨queue, line, descriptor, descriptors, free, cells, port, others, ?_, blocks⟩
      refine (congrArg State.exchanges went).trans ?_
      rw [State.endOffer, if_pos rfl, finishCompletion_eq]
      exact enqueue_exchanges _ _ _ rfl
    · by_cases management : c.address = s.mgmtAddress
      · have gone := missed.trans ((if_pos (.inl management)).trans (discard_noted (s := s) (c := c) s.notices))
        rw [if_pos management]
        refine gone.trans ?_
        rw [givenUp_some desc]
        unfold State.discarded
        rw [counters_discarded taken lost]
      · have full : s.queueFull .trunk = true := queueFull_trunk.mpr (kept.resolve_left management)
        rw [if_pos full] at answer
        have offered := offerTo_omitted (e := ⟨d, c.address, none⟩) answer
        have gone := missed.trans ((if_neg (not_or.mpr ⟨management, branch⟩)).trans
          ((congrArg (State.endOffer · p c) offered).trans (discard_noted (s := s) (c := c) _)))
        rw [if_neg management]
        refine gone.trans ?_
        rw [givenUp_some desc]
        unfold State.discarded
        rw [counters_discarded taken lost]
        rfl

end Sys2Proof.Machine
end

section
/-! PROOFS. PURGE (R110, R160): the entries that leave, and the exchange of a head in BACKOFF. -/

namespace Sys2Proof.Machine

/-! ### References given up in queue order (R86) -/

/-- The pool once the entries `es` have left their queue. -/
abbrev Pool.dropAll (q : Pool) (es : List QueueEntry) : Pool := es.foldl (fun q x => q.dropRef x.desc) q

theorem Pool.dropAll_cells (es : List QueueEntry) : ∀ q : Pool, (q.dropAll es).cells = q.cells := by
  induction es with
  | nil => exact fun _ => rfl
  | cons e es ih => exact fun q => (ih (q.dropRef e.desc)).trans (Pool.dropRef_cells q e.desc)

theorem Pool.dropAll_other {d : DescNo} (es : List QueueEntry) (other : ∀ x ∈ es, x.desc ≠ d) :
    ∀ q : Pool, (q.dropAll es).descriptor d = q.descriptor d := by
  induction es with
  | nil => exact fun _ => rfl
  | cons e es ih =>
    intro q
    exact (ih (fun x mem => other x (List.mem_cons_of_mem _ mem)) _).trans
      (Pool.dropRef_other q (Ne.symm (other e List.mem_cons_self)))

/-! ### What a PURGE leaves -/

theorem Scheduler.purged_eq (c : Scheduler) : c.purged = if c.phase = .onLine then c.queue.tail else c.queue := by
  unfold Scheduler.purged
  cases c.phase <;> rfl

theorem Scheduler.afterPurge_line {c : Scheduler} (h : c.phase = .onLine) : c.afterPurge = { c with queue := c.queue.take 1 } := by
  unfold Scheduler.afterPurge
  rw [h]

theorem Scheduler.afterPurge_off {c : Scheduler} (h : c.phase ≠ .onLine) :
    c.afterPurge = { c with queue := [], phase := .empty, attempts := 0, backoffGap := 0 } := by
  unfold Scheduler.afterPurge
  split
  · next line => exact absurd line h
  · rfl
  · rfl
  · rfl
  · rfl

/-- The notices with PURGED for the entries `es`. -/
def NoticeQueue.afterPurge (q : NoticeQueue) (p : Port) (es : List QueueEntry) : NoticeQueue :=
  if es = [] then q else q.post .purged (some p) none (some (BitVec.ofNat 16 es.length))

/-- The scheduler of port `p` emptied, no entry's reference given up yet. -/
def State.emptied (s : State) (p : Port) : State :=
  s.setPort p { s.port p with scheduler := (s.scheduler p).afterPurge }

/-- The state whose exchange a PURGE of the head `e` closes. -/
def State.headPurged (s : State) (p : Port) (e : QueueEntry) : State := (s.emptied p).withPool (s.pool.dropRef e.desc)

/-- What a PURGE leaves once the head's exchange is closed, in `u`. -/
def State.purgeNoted (u : State) (p : Port) (rest : List QueueEntry) : State :=
  (u.dropEntries rest).post .purged (some p) none (some (BitVec.ofNat 16 (rest.length + 1)))

section
variable {s : State} {p : Port}

theorem requestLost_none {d : DescNo} (none : s.exchanges.sendingRecord p d = none) : s.requestLost p d = s := by
  unfold State.requestLost
  rw [none]

theorem requestLost_some {d : DescNo} {r : ExchangeRecord} (sending : s.exchanges.sendingRecord p d = some r) :
    s.requestLost p d = s.closeExchange r .unreachable := by
  unfold State.requestLost
  rw [sending]

/-- A PURGE that closes no exchange. -/
theorem doPurge_plain (silent : (s.scheduler p).phase = .backoff → ∀ x ∈ (s.scheduler p).queue.head?,
      s.exchanges.sendingRecord p x.desc = none) :
    s.doPurge p = (((s.emptied p).withPool (s.pool.dropAll (s.scheduler p).purged)).withNotices
      (s.notices.afterPurge p (s.scheduler p).purged), Answer.okWith [BitVec.ofNat 8 (s.scheduler p).purged.length]) := by
  unfold State.doPurge
  extract_lets c gone emptied removed posted
  have left : removed = (s.emptied p).withPool (s.pool.dropAll gone) := by
    unfold removed
    split
    · next e rest backoff list =>
      have head : (s.scheduler p).queue = e :: rest := by
        rw [← list]
        unfold gone c
        rw [Scheduler.purged_eq, show (s.scheduler p).phase = .backoff from backoff]
        rfl
      have none : s.exchanges.sendingRecord p e.desc = none := silent backoff e (by rw [head]; rfl)
      rw [requestLost_none (s := emptied.dropEntries [e]) none, list]
      rfl
    · rfl
  have noted : posted = ((s.emptied p).withPool (s.pool.dropAll gone)).withNotices (s.notices.afterPurge p gone) := by
    unfold posted NoticeQueue.afterPurge
    rw [left]
    cases gone with
    | nil => rfl
    | cons e es => rfl
  rw [noted]
  rfl

/-- A PURGE that closes the exchange of a head in BACKOFF. -/
theorem doPurge_closes {e : QueueEntry} {rest : List QueueEntry} {r : ExchangeRecord} (backoff : (s.scheduler p).phase = .backoff)
    (queue : (s.scheduler p).queue = e :: rest) (sending : s.exchanges.sendingRecord p e.desc = some r) :
    s.doPurge p = (((s.headPurged p e).closeExchange r .unreachable).purgeNoted p rest,
      Answer.okWith [BitVec.ofNat 8 (rest.length + 1)]) := by
  have purged : (s.scheduler p).purged = e :: rest := by
    rw [Scheduler.purged_eq, backoff]
    exact queue
  unfold State.doPurge
  dsimp only
  rw [purged, backoff]
  dsimp only
  rw [requestLost_some (s := (s.onScheduler p Scheduler.afterPurge).dropEntries [e]) sending]
  rfl

end

theorem Scheduler.purged_other {c : Scheduler} (h : c.phase ≠ .onLine) : c.purged = c.queue := by
  rw [Scheduler.purged_eq, if_neg h]

/-- A port whose line an emptied queue leaves is held no more. -/
theorem emptied_unheld {s : State} {p : Port} (unheld : NoHeadHeld s) : NoHeadHeld (s.emptied p) := by
  intro q
  by_cases same : q = p
  · subst same
    rw [State.scheduler_def, State.emptied, State.setPort_port]
    dsimp only
    by_cases line : (s.scheduler q).phase = .onLine
    · rw [Scheduler.afterPurge_line line]
      exact unheld q
    · rw [Scheduler.afterPurge_off line]
      exact nofun
  · rw [State.scheduler_def, State.emptied, State.setPort_port_other _ _ same]
    exact unheld q

theorem closeExchange_canonical {s : State} (wf : CellsCanonical s) (r : ExchangeRecord) (o : CloseOutcome) :
    CellsCanonical (s.closeExchange r o) :=
  (closeExchange_moves s .nothing r o).invariant (I := fun s _ => CellsCanonical s) Move.cellsCanonical wf

/-- The state of a command that executes, read back without it. -/
theorem withAgent_executing {v : State} {a : Agent} {k : Option RequestId} (h : v.agent = { a with executing := k }) :
    v = ({ v.withAgent a with agent := { (v.withAgent a).agent with executing := k } } : State) := by
  change v = v.withAgent { a with executing := k }
  rw [← h]

theorem closed_unreachable {m : ExchangeMonitor} (one : OnePerPair m.records) {r : ExchangeRecord} (mem : r ∈ m.records) :
    m.closed r .unreachable = { m with records := m.records.filter fun x => decide (x ≠ r) } :=
  ExchangeMonitor.removePair_eq one mem

section
variable {u : State} {p : Port} {rest : List QueueEntry}

theorem purgeNoted_canonical (wf : CellsCanonical u) : CellsCanonical (u.purgeNoted p rest) := by
  unfold CellsCanonical
  change cellsWf (u.pool.dropAll rest).cells = true
  rw [Pool.dropAll_cells]
  exact wf

theorem purgeNoted_agent : (u.purgeNoted p rest).agent = u.agent := rfl

theorem headPurged_canonical {e : QueueEntry} (wf : CellsCanonical u) : CellsCanonical (u.headPurged p e) := by
  unfold CellsCanonical
  change cellsWf (u.pool.dropRef e.desc).cells = true
  rw [Pool.dropRef_cells]
  exact wf

end

/-- The answer of a port control, on the state that its action leaves. -/
theorem portControl_answers {s v : State} {c : Instr} {seq b k : Chr} {a : Answer}
    (request : c.requestOf = some (⟨seq, 0x05⟩, [b, k])) (ready : Ready s ⟨seq, 0x05⟩)
    (done : (s.withAgent { s.agent with executing := some ⟨seq, 0x05⟩ }).doPortControl b k = (v, a))
    (agent : v.agent = { s.agent with executing := some ⟨seq, 0x05⟩ }) (wf : CellsCanonical v) (short : a.data.length ≤ 249) :
    ∃ t, exec c s = .next t ∧ Replied (v.withAgent s.agent) t ⟨seq, 0x05⟩ a := by
  refine ⟨_, exec_portControl request ready, ?_⟩
  rw [done]
  have run := buildReply_executing (u := v.withAgent s.agent) (id := ⟨seq, 0x05⟩) (x := some ⟨seq, 0x05⟩) wf short
  rw [← withAgent_executing agent] at run
  exact run

/-- Settles O42: a PURGE by the head's place, and the exchange of a head in BACKOFF by its stand-in. -/
theorem purgeReply : Obligations.PurgeReply := by
  refine ⟨fun seq v s wf ready above => ⟨_, exec_portControl rfl ready, .of_result (doPortControl_range (.inl above)) wf
      (Nat.zero_le _)⟩, fun seq p s gone wf ready silent general list => ?_,
    fun seq p s e rest r wf ready sound backoff queue general sending unheld depth => ?_⟩
  · have purged : (s.scheduler p).purged = gone := (Scheduler.purged_eq _).trans list.symm
    refine ⟨_, ((s.emptied p).withPool (s.pool.dropAll gone)).withNotices (s.notices.afterPurge p gone),
      exec_portControl rfl ready, ?_, ?_, fun line => ?_, fun off => ?_⟩
    · rw [← purged]
      exact .of_result (doPortControl_eq (Port.ofChr_toChr p) (doPurge_plain
        (s := s.withAgent { s.agent with executing := some ⟨seq, 0x05⟩ }) silent))
        ((congrArg cellsWf (Pool.dropAll_cells _ _)).trans wf) (show 1 ≤ 249 by decide)
    · have scheduler : (((s.emptied p).withPool (s.pool.dropAll gone)).withNotices (s.notices.afterPurge p gone)).scheduler p
          = (s.scheduler p).afterPurge := by
        rw [State.scheduler_def]
        exact congrArg PortState.scheduler (State.setPort_port _ _ _)
      rw [scheduler]
      rfl
    · refine (congrArg PortState.scheduler (State.setPort_port _ _ _)).trans ?_
      exact Scheduler.afterPurge_line line
    · refine (congrArg PortState.scheduler (State.setPort_port _ _ _)).trans ?_
      exact Scheduler.afterPurge_off off
  · obtain ⟨x, state⟩ : ∃ x : State, x = s.withAgent { s.agent with executing := some ⟨seq, 0x05⟩ } := ⟨_, rfl⟩
    obtain ⟨mem, target, -⟩ := ExchangeMonitor.sendingRecord_some sending
    have purge := doPurge_closes (s := x) (e := e) (rest := rest) (r := r) (by rw [state]; exact backoff)
      (by rw [state]; exact queue) (by rw [state]; exact sending)
    have executing : x.agent = { s.agent with executing := some ⟨seq, 0x05⟩ } := by rw [state]
    have agent : (((x.headPurged p e).closeExchange r .unreachable).purgeNoted p rest).agent
        = { s.agent with executing := some ⟨seq, 0x05⟩ } :=
      purgeNoted_agent.trans ((closeExchange_ripple (x.headPurged p e) r .unreachable).agent.trans executing)
    have canonical : CellsCanonical (((x.headPurged p e).closeExchange r .unreachable).purgeNoted p rest) :=
      purgeNoted_canonical (closeExchange_canonical (headPurged_canonical (by rw [state]; exact wf)) r .unreachable)
    have quiet : NoHeadHeld (x.headPurged p e) := emptied_unheld (s := x) (by rw [state]; exact unheld)
    have waits : (x.headPurged p e).trunk.pendingDepth = none := by rw [state]; exact depth
    have closing : s.notices.closing r .unreachable = s.notices.post .exchangeClosed (some p) (some r.line) (some 3) := by
      rw [← target]
      rfl
    have off : (s.scheduler p).phase ≠ .onLine := by rw [backoff]; exact nofun
    have done : x.doPortControl p.toChr 3 = _ := doPortControl_eq (Port.ofChr_toChr p) purge
    obtain ⟨t, run, replied⟩ := portControl_answers (s := s) (c := .purge seq p.toChr) (seq := seq) (b := p.toChr) (k := 3)
      (a := Answer.okWith [BitVec.ofNat 8 (rest.length + 1)]) rfl ready (by rw [← state]; exact done) agent canonical (show 1 ≤ 249 by decide)
    have emptied : (x.headPurged p e).port p = { s.port p with
        scheduler := { s.scheduler p with queue := [], phase := .empty, attempts := 0, backoffGap := 0 } } := by
      rw [← Scheduler.afterPurge_off off, state]
      exact State.setPort_port _ _ _
    refine ⟨t, _, run, replied, fun plain => ?_, fun d c standIn away settings others taken => ?_⟩
    · rw [closeExchange_plain plain quiet waits, state]
      have closed := closed_unreachable sound.2 mem
      change ((((s.emptied p).withPool (s.pool.dropAll (e :: rest))).withTable (s.exchanges.closed r .unreachable)).withNotices
        ((s.notices.closing r .unreachable).post .purged (some p) none (some (BitVec.ofNat 16 (rest.length + 1))))) = _
      rw [closed, closing, State.emptied, Scheduler.afterPurge_off off]
    · have origin : (x.headPurged p e).port r.origin = s.port r.origin := by
        rw [state]
        exact State.setPort_port_other _ _ away
      have offered : StandInTaken (x.headPurged p e) r .unreachable d c := by
        refine ⟨by rw [state]; exact taken.descriptor, by rw [state]; exact taken.cell, ?_⟩
        rw [show (x.headPurged p e).agent.settings = s.agent.settings by rw [state]; rfl]
        exact (filter_congr (congrArg _ origin) (congrArg _ origin) (congrArg PortState.scheduler origin) _ _).trans taken.offered
      obtain ⟨stored, notices, table⟩ := closeExchange_taken standIn offered quiet waits
      have ripple := closeExchange_ripple (x.headPurged p e) r .unreachable
      have canonical' : CellsCanonical (x.headPurged p e) := headPurged_canonical (by rw [state]; exact wf)
      generalize (x.headPurged p e).closeExchange r .unreachable = u at *
      obtain ⟨n, m, y, shape⟩ := stored.state
      have port : u.port p = (x.headPurged p e).port p := by
        rw [shape]
        exact State.setPort_port_other _ _ (Ne.symm away)
      refine ⟨stored.since origin (by rw [state]; rfl) rfl rfl (Pool.dropAll_cells rest u.pool)
        (Pool.dropAll_other rest others u.pool) canonical' settings, ?_, ?_, ?_, ?_, rfl⟩
      · exact congrArg PortState.scheduler (port.trans emptied)
      · refine table.trans ?_
        rw [state]
        exact closed_unreachable sound.2 mem
      · change u.notices.post _ _ _ _ = _
        rw [notices, show (x.headPurged p e).notices = s.notices by rw [state]; rfl, closing]
      · refine ripple.routes.trans ?_
        rw [state]
        rfl

end Sys2Proof.Machine
end

section
/-! PROOFS. What the Exchange Monitor's and the Admission Unit's work leaves: posts only add to the Notice Queue, and a
descriptor in use is not touched by a stand-in reply (R70, R166). -/

namespace Sys2Proof.Machine

/-! ### Deciding heads posts nothing and leaves the pool -/

/-- The notices and the pool are as they were. -/
def PostsKept (s t : State) : Prop := t.notices = s.notices ∧ t.pool = s.pool

theorem PostsKept.trans {s t u : State} (a : PostsKept s t) (b : PostsKept t u) : PostsKept s u :=
  ⟨b.1.trans a.1, b.2.trans a.2⟩

theorem redecidePort_kept (s : State) (p : Port) : PostsKept s (s.redecidePort p) := by
  unfold State.redecidePort
  split
  · have attempt := decideHead_attemptOnly s p
    exact ⟨attempt.blocks.2.2.1, attempt.pool⟩
  · exact ⟨rfl, rfl⟩

theorem redecide_kept (s : State) : PostsKept s s.redecide := by
  have all (l : List Port) : ∀ t : State, PostsKept t (l.foldl State.redecidePort t) := by
    induction l with
    | nil => exact fun _ => ⟨rfl, rfl⟩
    | cons p l ih => exact fun t => (redecidePort_kept t p).trans (ih _)
  exact all Port.all s

theorem tableChanged_kept (s : State) : PostsKept s s.tableChanged := by
  have settled : PostsKept s s.settleDepth := by
    rcases settleDepth_cases s with e | ⟨d, _, _, e⟩ <;> rw [e] <;> exact ⟨rfl, rfl⟩
  exact settled.trans (redecide_kept _)

/-! ### Posts only add (R166) -/

def NoticesGrow (s t : State) : Prop := s.notices.records <+: t.notices.records

theorem NoticesGrow.trans {s t u : State} (a : NoticesGrow s t) (b : NoticesGrow t u) : NoticesGrow s u := List.IsPrefix.trans a b

theorem NoticesGrow.of_eq {s t : State} (h : t.notices = s.notices) : NoticesGrow s t := by
  unfold NoticesGrow
  rw [h]

theorem NoticeQueue.post_grows (q : NoticeQueue) (k : NoticeKind) (p : Option Port) (a : Option Chr) (d : Option Word16) :
    q.records <+: (q.post k p a d).records := by
  unfold NoticeQueue.post
  dsimp only
  split
  · exact List.prefix_append _ _
  · exact List.prefix_rfl

theorem post_grows (s : State) (k : NoticeKind) (p : Option Port) (a : Option Chr) (d : Option Word16) :
    NoticesGrow s (s.post k p a d) := s.notices.post_grows k p a d

theorem enqueue_notices (s : State) (p : Port) (e : QueueEntry) : (s.enqueue p e).notices = s.notices :=
  (enqueue_spec s p e).2.2.2.2.2.2.1

theorem standIn_grows (s : State) (r : ExchangeRecord) (o : CloseOutcome) : NoticesGrow s (s.standIn r o) := by
  unfold State.standIn
  split
  · exact post_grows s _ _ _ _
  · exact post_grows s _ _ _ _
  · dsimp only
    split
    · exact .of_eq (enqueue_notices _ _ _)
    · exact post_grows _ _ _ _ _

theorem closePosted_grows (s : State) (r : ExchangeRecord) (o : CloseOutcome) : NoticesGrow s (s.closePosted r o) := by
  unfold State.closePosted
  dsimp only
  split
  · exact (post_grows s _ _ _ _).trans (standIn_grows _ r o)
  · exact post_grows s _ _ _ _

theorem closeExchange_grows (s : State) (r : ExchangeRecord) (o : CloseOutcome) : NoticesGrow s (s.closeExchange r o) := by
  rw [closeExchange_eq]
  exact (closePosted_grows s r o).trans (.of_eq (tableChanged_kept _).1)

theorem freeRecord_grows (s : State) (p : Port) (a : Chr) : NoticesGrow s (s.freeRecord p a) :=
  .of_eq (tableChanged_kept (s.withTable (s.exchanges.removePair p a))).1

theorem requestLost_grows (s : State) (p : Port) (d : DescNo) : NoticesGrow s (s.requestLost p d) := by
  unfold State.requestLost
  split
  · exact closeExchange_grows s _ _
  · exact .of_eq rfl

theorem closeAll_grows (rs : List ExchangeRecord) : ∀ s : State, NoticesGrow s (s.closeAll rs) := by
  induction rs with
  | nil => exact fun s => .of_eq rfl
  | cons r rs ih =>
    intro s
    rw [closeAll_cons]
    exact (closeExchange_grows s r _).trans (ih _)

theorem targetLost_grows (s : State) (p : Port) : NoticesGrow s (s.targetLost p) := by
  rw [targetLost_eq]
  exact (closeAll_grows (s.doomed p) s).trans (.of_eq (tableChanged_kept _).1)

theorem clearQueue_grows (s : State) (p : Port) : NoticesGrow s (s.clearQueue p) := by
  unfold State.clearQueue
  dsimp only
  split
  · exact .of_eq rfl
  · exact post_grows _ _ _ _ _

theorem abandonTelegram_notices (s : State) (p : Port) (r : Receiver) : (s.abandonTelegram p r).notices = s.notices := by
  unfold State.abandonTelegram
  dsimp only
  split <;> rfl

theorem portLoss_grows (s : State) (p : Port) (a : AdminState) : NoticesGrow s (s.portLoss p a) := by
  rw [portLoss_eq]
  have cleared : NoticesGrow s (s.portDown p a) := clearQueue_grows
    (s.onPort p fun x => { x with admin := a, limitReached := false, transmitter := x.transmitter.cutShort }) p
  exact (cleared.trans (targetLost_grows _ p)).trans (.of_eq (abandonTelegram_notices _ _ _))

/-- A post into a Notice Queue with room stands at its place whatever is posted after it. -/
theorem post_stays {s t : State} {k : NoticeKind} {p : Option Port} {a : Option Chr} {d : Option Word16}
    (grows : NoticesGrow (s.post k p a d) t) (room : s.notices.records.length < Config.noticeCount) :
    t.notices.records[s.notices.records.length]? = some ⟨s.notices.nextStamp, k, p, a, d⟩ := by
  have posted : (s.post k p a d).notices.records = s.notices.records ++ [⟨s.notices.nextStamp, k, p, a, d⟩] := if_pos room
  unfold NoticesGrow at grows
  rw [posted] at grows
  obtain ⟨more, grown⟩ := grows
  rw [← grown, List.append_assoc, List.getElem?_append_right (Nat.le_refl _), Nat.sub_self]
  rfl

/-! ### A descriptor in use -/

/-- A stand-in reply takes a FREE descriptor, and no other one changes. -/
theorem standIn_descriptor {s : State} {d : DescNo} (used : (s.pool.descriptor d).state ≠ .free) (r : ExchangeRecord)
    (o : CloseOutcome) : (s.standIn r o).pool.descriptor d = s.pool.descriptor d := by
  unfold State.standIn
  split
  · rfl
  · rfl
  · next e c q found taken =>
    have other : d ≠ e := fun same => used (same ▸ (Pool.freeDescriptor_spec found).2)
    dsimp only
    split
    · refine (Pool.giveUp_other _ other).trans ?_
      rw [(enqueue_spec _ _ _).2.2.2.1]
      exact (Pool.setDescriptor_other _ _ other).trans (Pool.fillStandIn_other taken r _ _ other)
    · exact (Pool.giveUp_other _ other).trans (Pool.fillStandIn_other taken r _ _ other)

theorem closeExchange_descriptor {s : State} {d : DescNo} (used : (s.pool.descriptor d).state ≠ .free) (r : ExchangeRecord)
    (o : CloseOutcome) : (s.closeExchange r o).pool.descriptor d = s.pool.descriptor d := by
  rw [closeExchange_eq, (tableChanged_kept _).2]
  unfold State.closePosted
  dsimp only
  split
  · exact standIn_descriptor (s := s.post .exchangeClosed (some r.target) (some r.line) (some o.code)) used r o
  · rfl

theorem closeAll_descriptor {d : DescNo} (rs : List ExchangeRecord) : ∀ {s : State}, (s.pool.descriptor d).state ≠ .free →
    (s.closeAll rs).pool.descriptor d = s.pool.descriptor d := by
  induction rs with
  | nil => exact fun _ => rfl
  | cons r rs ih =>
    intro s used
    have first := closeExchange_descriptor used r .unreachable
    rw [closeAll_cons, ih (by rw [first]; exact used), first]

theorem targetLost_descriptor {s : State} {d : DescNo} (used : (s.pool.descriptor d).state ≠ .free) (p : Port) :
    (s.targetLost p).pool.descriptor d = s.pool.descriptor d := by
  rw [targetLost_eq, (tableChanged_kept _).2]
  exact closeAll_descriptor (s.doomed p) used

/-- With no stand-in reply, closes leave the pool. -/
theorem closeAll_pool (rs : List ExchangeRecord) : ∀ {s : State}, (∀ r ∈ rs, r.standIn = false) →
    (s.closeAll rs).pool = s.pool := by
  induction rs with
  | nil => exact fun _ => rfl
  | cons r rs ih =>
    intro s plain
    rw [closeAll_cons, ih fun x mem => plain x (List.mem_cons_of_mem _ mem), closeExchange_eq, (tableChanged_kept _).2,
      closePosted_plain (plain r List.mem_cons_self)]

theorem targetLost_pool {s : State} {p : Port}
    (plain : ∀ r ∈ s.exchanges.records, r.target = p → r.isOpen = true → r.standIn = false) :
    (s.targetLost p).pool = s.pool := by
  rw [targetLost_eq, (tableChanged_kept _).2]
  refine closeAll_pool (s.doomed p) fun r mem => ?_
  obtain ⟨stands, target, opened⟩ := State.mem_doomed.mp mem
  exact plain r stands target opened

/-! ### The storage that a lost port gives up (R84, R126) -/

/-- The pool once port `p`'s receiver has given up the telegram it has open. -/
def State.abandonedPool (s : State) (p : Port) : Pool :=
  match (s.port p).receiver with
  | .inTelegram d _ => s.pool.giveUp d
  | .off | .settling | .idle | .discarding _ _ | .echo _ => s.pool

theorem abandonTelegram_eq (s : State) (p : Port) (r : Receiver) : s.abandonTelegram p r =
    (s.setPort p { s.port p with receiver := r, counters := (s.port p).abandonedCounters }).withPool (s.abandonedPool p) := by
  have counted : (s.count p Counters.addRxDiscarded).onPort p (fun x => { x with receiver := r })
      = s.setPort p { s.port p with receiver := r, counters := (s.port p).counters.addRxDiscarded } := by
    unfold State.count
    rw [State.onPort_onPort]
    rfl
  unfold State.abandonTelegram State.abandonedPool PortState.abandonedCounters
  cases (s.port p).receiver with
  | inTelegram d b => exact congrArg (State.withPool · (s.pool.giveUp d)) counted
  | discarding a n => exact counted
  | off => rfl
  | settling => rfl
  | idle => rfl
  | echo k => rfl

theorem abandonedPool_open {s : State} {p : Port} {d : DescNo} {b : Bool} (h : (s.port p).receiver = .inTelegram d b) :
    s.abandonedPool p = s.pool.giveUp d := by
  unfold State.abandonedPool
  rw [h]

/-- The state in which a port loss reaches the Exchange Monitor. -/
theorem portDown_eq (s : State) (p : Port) (admin : AdminState) : s.portDown p admin =
    ((s.setPort p ((s.port p).downed admin)).withPool (s.purgedPool p)).withNotices
      (s.notices.purgedOf p (s.scheduler p).queue.length) := by
  have port : (s.onPort p fun x =>
      { x with admin := admin, limitReached := false, transmitter := x.transmitter.cutShort }).scheduler p = s.scheduler p := by
    rw [State.scheduler_def, State.onPort_port]
    rfl
  have emptied (q : Pool) : ((((s.withPool q).onPort p fun x =>
      { x with admin := admin, limitReached := false, transmitter := x.transmitter.cutShort }).onScheduler p
        fun c => { c with queue := [], phase := .empty, attempts := 0, backoffGap := 0 }))
        = (s.setPort p ((s.port p).downed admin)).withPool q := by
    unfold State.onScheduler
    rw [State.onPort_onPort]
    rfl
  unfold State.portDown State.clearQueue
  dsimp only
  rw [port]
  by_cases none : (s.scheduler p).queue = []
  · refine (if_pos (List.isEmpty_iff.mpr none)).trans ((emptied (s.purgedPool p)).trans ?_)
    unfold NoticeQueue.purgedOf
    rw [none]
    rfl
  · refine (if_neg fun h => none (List.isEmpty_iff.mp h)).trans ?_
    refine (congrArg (fun t : State => t.post .purged (some p) Option.none
      (some (BitVec.ofNat 16 (s.scheduler p).queue.length))) (emptied (s.purgedPool p))).trans ?_
    unfold NoticeQueue.purgedOf
    rw [if_neg fun h => none (List.length_eq_zero_iff.mp h)]
    rfl

theorem mem_returned {c : CellNo} (cells : List CellNo) : ∀ free : List CellNo, c ∈ cells ∨ c ∈ free →
    c ∈ cells.foldl (fun free c => insertCell c free) free := by
  induction cells with
  | nil => exact fun free h => h.resolve_left List.not_mem_nil
  | cons x cells ih =>
    intro free h
    refine ih _ ?_
    rcases h with h | h
    · rcases List.mem_cons.mp h with rfl | h
      · exact .inr (mem_insertCell.mpr (.inl rfl))
      · exact .inl h
    · exact .inr (mem_insertCell.mpr (.inr h))

/-- The storage of an abandoned telegram is free. -/
theorem portLoss_freed {s : State} {p : Port} (branch : p ≠ .trunk) {admin : AdminState} (down : admin ≠ .active) :
    AbandonedFreed p s (s.portLoss p admin) := by
  intro d b receiver general receiving refs unnamed
  have before : (s.portDown p admin).pool.descriptor d = s.pool.descriptor d := by
    rw [portDown_eq]
    exact Pool.dropAll_other _ unnamed s.pool
  have kept : ((s.portDown p admin).targetLost p).pool.descriptor d = s.pool.descriptor d :=
    (targetLost_descriptor (by rw [before, receiving]; exact nofun) p).trans before
  have port : ((s.portDown p admin).targetLost p).port p = (s.port p).downed admin := by
    rw [(targetLost_clears (portDown_outOfService s branch down)).1.port, portDown_port]
  rw [portLoss_eq]
  generalize (s.portDown p admin).targetLost p = u at kept port ⊢
  have opened : (u.port p).receiver = .inTelegram d b := by
    rw [port]
    exact receiver
  have pool : (u.abandonTelegram p .off).pool = u.pool.release d := by
    rw [abandonTelegram_eq]
    exact (abandonedPool_open opened).trans (Pool.giveUp_last (by rw [kept, refs]))
  rw [pool, Pool.release_descriptor_same]
  refine ⟨rfl, rfl, rfl, fun c mem => ?_⟩
  unfold Pool.release
  rw [kept]
  exact mem_returned _ _ (.inl mem)

end Sys2Proof.Machine
end

section
/-! PROOFS. The records of a lost port (R63, R65, R70): the closes in their order, without a stand-in reply taken, or with
one. -/

namespace Sys2Proof.Machine

/-! ### The table after closes -/

/-- The table once the records `rs` have closed UNREACHABLE. -/
def ExchangeMonitor.closedAll (m : ExchangeMonitor) (rs : List ExchangeRecord) : ExchangeMonitor :=
  rs.foldl (fun m r => m.closed r .unreachable) m

theorem closedAll_eq (rs : List ExchangeRecord) : ∀ m : ExchangeMonitor, m.closedAll rs =
    { m with records := m.records.filter fun x => rs.all fun r => !x.onPair r.target r.line } := by
  induction rs with
  | nil =>
    intro m
    have all : (m.records.filter fun x => ([] : List ExchangeRecord).all fun r => !x.onPair r.target r.line) = m.records :=
      List.filter_eq_self.mpr fun _ _ => rfl
    rw [all]
    rfl
  | cons r rs ih =>
    intro m
    have next : m.closedAll (r :: rs) = (m.closed r .unreachable).closedAll rs := rfl
    rw [next, ih]
    unfold ExchangeMonitor.closed ExchangeMonitor.removePair
    dsimp only
    rw [List.filter_filter]
    refine congrArg (fun l => ({ m with records := l } : ExchangeMonitor)) (List.filter_congr fun x _ => ?_)
    rw [List.all_cons, Bool.and_comm]

/-- A port's open records closed and those with late hold dropped (R63). -/
theorem lost_table {s : State} (one : OnePerPair s.exchanges.records) (p : Port) :
    (s.exchanges.closedAll (s.doomed p)).dropLate p = { s.exchanges with
      records := s.exchanges.records.filter fun r => !(decide (r.target = p) && (r.isOpen || r.lateHold)) } := by
  rw [closedAll_eq]
  unfold ExchangeMonitor.dropLate
  dsimp only
  rw [List.filter_filter]
  refine congrArg (fun l => ({ s.exchanges with records := l } : ExchangeMonitor)) (List.filter_congr fun x mem => ?_)
  have closed : ((s.doomed p).all fun r => !x.onPair r.target r.line) = !(decide (x.target = p) && x.isOpen) := by
    rw [Bool.eq_iff_iff, List.all_eq_true]
    constructor
    · intro all
      rw [Bool.not_eq_true', Bool.and_eq_false_imp, decide_eq_true_eq]
      intro target
      by_contra opened
      have stands := all x (State.mem_doomed.mpr ⟨mem, target, Bool.eq_true_of_not_eq_false opened⟩)
      rw [onPair_eq one mem mem] at stands
      simp at stands
    · intro out r doomed
      obtain ⟨stands, target, opened⟩ := State.mem_doomed.mp doomed
      rw [onPair_eq one stands mem, Bool.not_eq_true', decide_eq_false_iff_not]
      rintro rfl
      rw [opened, decide_eq_true target] at out
      cases out
  rw [closed]
  cases decide (x.target = p) <;> cases x.isOpen <;> cases x.lateHold <;> rfl

/-! ### Closes without a stand-in reply taken -/

/-- The posts of one close: EXCHANGE_CLOSED, and STANDIN_LOST for want of a descriptor where stand-in is ON. -/
def NoticeQueue.losing (q : NoticeQueue) (r : ExchangeRecord) : NoticeQueue :=
  if r.standIn then (q.closing r .unreachable).post .standinLost (some r.origin) (some r.originAddress) (some 4)
  else q.closing r .unreachable

section
variable {s : State}

theorem closeAll_losing (unheld : NoHeadHeld s) (depth : s.trunk.pendingDepth = none) (rs : List ExchangeRecord) :
    ∀ (n : NoticeQueue) (m : ExchangeMonitor), (∀ r ∈ rs, r.standIn = false ∨ s.pool.freeDescriptor? = none) →
      ((s.withNotices n).withTable m).closeAll rs
        = (s.withNotices (rs.foldl NoticeQueue.losing n)).withTable (m.closedAll rs) := by
  induction rs with
  | nil => exact fun _ _ _ => rfl
  | cons r rs ih =>
    intro n m lost
    have first : ((s.withNotices n).withTable m).closeExchange r .unreachable
        = (s.withNotices (n.losing r)).withTable (m.closed r .unreachable) := by
      unfold NoticeQueue.losing
      by_cases standIn : r.standIn = true
      · have empty := (lost r List.mem_cons_self).resolve_left (by rw [standIn]; exact nofun)
        have without := standIn_without (s := ((s.withNotices n).withTable m).withNotices (n.closing r .unreachable)) (r := r)
          (o := .unreachable) (.inl empty)
        rw [if_pos empty] at without
        rw [if_pos standIn, closeExchange_lost (s := (s.withNotices n).withTable m) (q := s.pool) standIn without unheld depth]
      · rw [if_neg standIn, closeExchange_plain (s := (s.withNotices n).withTable m) (Bool.eq_false_iff.mpr standIn) unheld depth]
    rw [closeAll_cons, first, ih _ _ fun x mem => lost x (List.mem_cons_of_mem _ mem)]
    rfl

/-- The Exchange Monitor's part of a port loss whose stand-in replies, if any, find no descriptor. -/
theorem targetLost_losing (one : OnePerPair s.exchanges.records) (unheld : NoHeadHeld s) (depth : s.trunk.pendingDepth = none)
    {p : Port} (lost : ∀ r ∈ s.exchanges.records, r.target = p → r.isOpen = true →
      r.standIn = false ∨ s.pool.freeDescriptor? = none) :
    s.targetLost p = (s.withNotices ((s.doomed p).foldl NoticeQueue.losing s.notices)).withTable { s.exchanges with
      records := s.exchanges.records.filter fun r => !(decide (r.target = p) && (r.isOpen || r.lateHold)) } := by
  have closes := closeAll_losing unheld depth (s.doomed p) s.notices s.exchanges fun r mem => by
    obtain ⟨stands, target, opened⟩ := State.mem_doomed.mp mem
    exact lost r stands target opened
  have same : (s.withNotices s.notices).withTable s.exchanges = s := rfl
  rw [same] at closes
  rw [targetLost_eq, closes]
  refine (tableChanged_idle (s := (s.withNotices ((s.doomed p).foldl NoticeQueue.losing s.notices)).withTable
    ((s.exchanges.closedAll (s.doomed p)).dropLate p)) unheld depth).trans ?_
  rw [lost_table one]

/-! ### Closes with one stand-in reply taken -/

variable {r : ExchangeRecord} {d : DescNo} {c : CellNo}

/-- The posts of the closes of records without stand-in. -/
def NoticeQueue.closingAll (q : NoticeQueue) (rs : List ExchangeRecord) : NoticeQueue :=
  rs.foldl (fun n r => n.closing r .unreachable) q

theorem StandInStored.closeAll (active : (s.port r.origin).admin = .active) (unheld : NoHeadHeld s)
    (depth : s.trunk.pendingDepth = none) (rs : List ExchangeRecord) : ∀ {t : State}, StandInStored s t r .unreachable d c →
      (∀ x ∈ rs, x.standIn = false) → StandInStored s (t.closeAll rs) r .unreachable d c
        ∧ (t.closeAll rs).notices = t.notices.closingAll rs ∧ (t.closeAll rs).exchanges = t.exchanges.closedAll rs := by
  induction rs with
  | nil => exact fun h _ => ⟨h, rfl, rfl⟩
  | cons x rs ih =>
    intro t h plain
    obtain ⟨first, notices, table⟩ := h.close active unheld depth (plain x List.mem_cons_self) .unreachable
    obtain ⟨rest, posted, closed⟩ := ih first fun y mem => plain y (List.mem_cons_of_mem _ mem)
    rw [closeAll_cons]
    exact ⟨rest, posted.trans (by rw [notices]; rfl), closed.trans (by rw [table]; rfl)⟩

theorem closeAll_split (pre post : List ExchangeRecord) :
    s.closeAll (pre ++ r :: post) = ((s.closeAll pre).closeExchange r .unreachable).closeAll post := by
  unfold State.closeAll
  rw [List.foldl_append, List.foldl_cons]

theorem closingAll_split (q : NoticeQueue) (pre post : List ExchangeRecord) :
    q.closingAll (pre ++ r :: post) = ((q.closingAll pre).closing r .unreachable).closingAll post := by
  unfold NoticeQueue.closingAll
  rw [List.foldl_append, List.foldl_cons]

theorem closedAll_split (m : ExchangeMonitor) (pre post : List ExchangeRecord) :
    m.closedAll (pre ++ r :: post) = ((m.closedAll pre).closed r .unreachable).closedAll post := by
  unfold ExchangeMonitor.closedAll
  rw [List.foldl_append, List.foldl_cons]

/-- An offer does not depend on the notices and the table. -/
theorem StandInTaken.of_posted {o : CloseOutcome} (h : StandInTaken s r o d c) (n : NoticeQueue) (m : ExchangeMonitor) :
    StandInTaken ((s.withNotices n).withTable m) r o d c :=
  ⟨h.descriptor, h.cell, (filter_congr rfl rfl rfl _ _).trans h.offered⟩

theorem losing_plain (rs : List ExchangeRecord) : ∀ n : NoticeQueue, (∀ x ∈ rs, x.standIn = false) →
    rs.foldl NoticeQueue.losing n = n.closingAll rs := by
  induction rs with
  | nil => exact fun _ _ => rfl
  | cons x rs ih =>
    intro n plain
    have first : n.losing x = n.closing x .unreachable := by
      unfold NoticeQueue.losing
      rw [if_neg (by rw [plain x List.mem_cons_self]; exact Bool.false_ne_true)]
    rw [List.foldl_cons, first]
    exact ih _ fun y mem => plain y (List.mem_cons_of_mem _ mem)

theorem doomed_nodup (one : OnePerPair s.exchanges.records) (p : Port) : (s.doomed p).Nodup := by
  have distinct : s.exchanges.records.Nodup := one.imp fun {a b} apart same => apart ⟨congrArg _ same, congrArg _ same⟩
  unfold State.doomed
  rw [List.nodup_reverse, (s.exchanges.oldestFirst_perm _).nodup_iff]
  exact distinct.filter _

/-- The Exchange Monitor's part of a port loss with one stand-in reply, which is taken. -/
theorem targetLost_answered (one : OnePerPair s.exchanges.records) (unheld : NoHeadHeld s) (depth : s.trunk.pendingDepth = none)
    {p : Port} (record : r ∈ s.exchanges.records) (target : r.target = p) (opened : r.isOpen = true)
    (standIn : r.standIn = true) (only : ∀ x ∈ s.exchanges.records, x.target = p → x.isOpen = true → x.standIn = true → x = r)
    (taken : StandInTaken s r .unreachable d c) :
    StandInStored s (s.targetLost p) r .unreachable d c
      ∧ (s.targetLost p).notices = s.notices.closingAll (s.doomed p)
      ∧ (s.targetLost p).exchanges = { s.exchanges with
          records := s.exchanges.records.filter fun r => !(decide (r.target = p) && (r.isOpen || r.lateHold)) } := by
  have distinct := doomed_nodup one p
  obtain ⟨pre, post, parts⟩ := List.append_of_mem (State.mem_doomed.mpr ⟨record, target, opened⟩)
  rw [parts] at distinct
  have ⟨_, tail, apart⟩ := List.nodup_append.mp distinct
  have plain (x : ExchangeRecord) (mem : x ∈ s.doomed p) (other : x ≠ r) : x.standIn = false := by
    obtain ⟨stands, target, opened⟩ := State.mem_doomed.mp mem
    exact Bool.eq_false_iff.mpr fun on => other (only x stands target opened on)
  have before : ∀ x ∈ pre, x.standIn = false := fun x mem =>
    plain x (by rw [parts]; exact List.mem_append_left _ mem) fun same => apart x mem r List.mem_cons_self same
  have after : ∀ x ∈ post, x.standIn = false := fun x mem =>
    plain x (by rw [parts]; exact List.mem_append_right _ (List.mem_cons_of_mem _ mem))
      fun same => (List.nodup_cons.mp tail).1 (same ▸ mem)
  have first := closeAll_losing unheld depth pre s.notices s.exchanges fun x mem => .inl (before x mem)
  rw [losing_plain pre _ before] at first
  have closes : s.closeAll (s.doomed p)
      = ((((s.withNotices (s.notices.closingAll pre)).withTable (s.exchanges.closedAll pre)).closeExchange r
          .unreachable)).closeAll post := by
    rw [parts, ← first]
    exact closeAll_split pre post
  have offered : StandInTaken ((s.withNotices (s.notices.closingAll pre)).withTable (s.exchanges.closedAll pre)) r
      .unreachable d c := taken.of_posted _ _
  obtain ⟨⟨shape, joined⟩, notices, table⟩ := closeExchange_taken standIn offered unheld depth
  have stored : StandInStored s (((s.withNotices (s.notices.closingAll pre)).withTable
      (s.exchanges.closedAll pre)).closeExchange r .unreachable) r .unreachable d c := ⟨shape, joined.behind, joined.head⟩
  obtain ⟨last, posted, closed⟩ := stored.closeAll taken.active unheld depth post after
  rw [← closes] at last posted closed
  have posts : (s.closeAll (s.doomed p)).notices = s.notices.closingAll (s.doomed p) := by
    rw [posted, notices, parts]
    exact (closingAll_split s.notices pre post).symm
  have tables : (s.closeAll (s.doomed p)).exchanges = s.exchanges.closedAll (s.doomed p) := by
    rw [closed, table, parts]
    exact (closedAll_split s.exchanges pre post).symm
  rw [targetLost_eq]
  generalize s.closeAll (s.doomed p) = u at last posts tables ⊢
  have same : u.withNotices u.notices = u := rfl
  have changed := last.tableChanged taken.active unheld depth u.notices (m := u.exchanges.dropLate p)
    ((u.exchanges.thinned_filter _).openCount_le _)
  rw [same, posts, tables, lost_table one] at changed
  rw [tables, lost_table one]
  exact changed

end

end Sys2Proof.Machine
end

section
/-! PROOFS. The loss of a port (R112, R126, R131, R156): DISABLE and STUCK_FAULT. -/

namespace Sys2Proof.Machine

/-! ### The records that a loss leaves and posts -/

theorem doomed_ages (s : State) (p : Port) : (s.doomed p).Pairwise fun x y => s.exchanges.age x ≤ s.exchanges.age y := by
  unfold State.doomed
  rw [List.pairwise_reverse]
  exact s.exchanges.oldestFirst_fallingAge _

theorem doomed_perm (s : State) (p : Port) :
    (s.doomed p).Perm (s.exchanges.records.filter fun r => decide (r.target = p) && r.isOpen) :=
  (List.reverse_perm _).trans (s.exchanges.oldestFirst_perm _)

section
variable {s t : State} {p : Port} {q : NoticeQueue}

/-- The table of `s` without what a loss of port `p` takes away. -/
def ExchangeMonitor.afterLoss (m : ExchangeMonitor) (p : Port) : ExchangeMonitor :=
  { m with records := m.records.filter fun r => !(decide (r.target = p) && (r.isOpen || r.lateHold)) }

theorem recordsLost_losing (notices : t.notices = (s.doomed p).foldl NoticeQueue.losing q)
    (table : t.exchanges = s.exchanges.afterLoss p) : RecordsLost p s t q fun r => if r.standIn then some 4 else none := by
  refine ⟨s.doomed p, doomed_perm s p, doomed_ages s p, notices.trans (List.foldl_ext _ _ q fun n r mem => ?_), table⟩
  obtain ⟨-, rfl, -⟩ := State.mem_doomed.mp mem
  unfold NoticeQueue.losing
  dsimp only
  by_cases standIn : r.standIn = true
  · rw [if_pos standIn, if_pos standIn]
    rfl
  · rw [if_neg standIn, if_neg standIn]
    rfl

theorem recordsLost_closing (notices : t.notices = q.closingAll (s.doomed p))
    (table : t.exchanges = s.exchanges.afterLoss p) : RecordsLost p s t q fun _ => none := by
  refine ⟨s.doomed p, doomed_perm s p, doomed_ages s p, notices.trans (List.foldl_ext _ _ q fun n r mem => ?_), table⟩
  obtain ⟨-, rfl, -⟩ := State.mem_doomed.mp mem
  rfl

end

/-! ### The loss up to the Exchange Monitor -/

section
variable {s : State} {p : Port} {admin : AdminState}

theorem portDown_exchanges : (s.portDown p admin).exchanges = s.exchanges :=
  (congrArg State.exchanges (portDown_eq s p admin)).trans rfl

theorem portDown_doomed : (s.portDown p admin).doomed p = s.doomed p := by
  unfold State.doomed
  rw [portDown_exchanges]

theorem portDown_notices : (s.portDown p admin).notices = s.notices.purgedOf p (s.scheduler p).queue.length :=
  (congrArg State.notices (portDown_eq s p admin)).trans rfl

theorem portDown_pool : (s.portDown p admin).pool = s.purgedPool p :=
  (congrArg State.pool (portDown_eq s p admin)).trans rfl

theorem portDown_unheld (others : ∀ q, q ≠ p → (s.scheduler q).phase ≠ .headHeld) : NoHeadHeld (s.portDown p admin) := by
  intro q
  by_cases same : q = p
  · subst same
    rw [State.scheduler_def, portDown_port]
    exact nofun
  · rw [State.scheduler_def, portDown_port_other s admin same]
    exact others q same

theorem portDown_trunk : (s.portDown p admin).trunk = s.trunk :=
  (congrArg State.trunk (portDown_eq s p admin)).trans rfl

theorem lostPool_open {d : DescNo} {b : Bool} (h : (s.port p).receiver = .inTelegram d b) :
    s.lostPool p = (s.purgedPool p).giveUp d := by
  unfold State.lostPool
  rw [h]

theorem lostPool_closed (h : ∀ d b, (s.port p).receiver ≠ .inTelegram d b) : s.lostPool p = s.purgedPool p := by
  unfold State.lostPool
  split
  · next d b opened => exact absurd opened (h d b)
  all_goals rfl

theorem abandonedPool_closed (h : ∀ d b, (s.port p).receiver ≠ .inTelegram d b) : s.abandonedPool p = s.pool := by
  unfold State.abandonedPool
  split
  · next d b opened => exact absurd opened (h d b)
  all_goals rfl

/-- The pool of a lost port, once its receiver has given up what it had open. -/
theorem abandonedPool_lost {u : State} (receiver : (u.port p).receiver = (s.port p).receiver) (pool : u.pool = s.purgedPool p) :
    u.abandonedPool p = s.lostPool p := by
  by_cases opened : ∃ d b, (s.port p).receiver = .inTelegram d b
  · obtain ⟨d, b, h⟩ := opened
    rw [abandonedPool_open (receiver.trans h), lostPool_open h, pool]
  · have closed : ∀ d b, (s.port p).receiver ≠ .inTelegram d b := fun d b h => opened ⟨d, b, h⟩
    rw [abandonedPool_closed (by rw [receiver]; exact closed), lostPool_closed closed, pool]

theorem abandonedPool_cells : (s.abandonedPool p).cells = s.pool.cells := by
  unfold State.abandonedPool
  split
  · exact Pool.giveUp_cells _ _
  all_goals rfl

theorem abandonedPool_other {d : DescNo} (h : ∀ b, (s.port p).receiver ≠ .inTelegram d b) :
    (s.abandonedPool p).descriptor d = s.pool.descriptor d := by
  unfold State.abandonedPool
  split
  · next k b opened =>
    refine Pool.giveUp_other _ fun same => ?_
    subst same
    exact h b opened
  all_goals rfl

theorem Pool.giveUp_congr {q q' : Pool} {d : DescNo} (h : q.descriptor d = q'.descriptor d) :
    (q.giveUp d).descriptor d = (q'.giveUp d).descriptor d := by
  unfold Pool.giveUp
  rw [h]
  dsimp only
  split
  · rw [Pool.release_descriptor_same, Pool.release_descriptor_same]
  · rw [Pool.setDescriptor_same, Pool.setDescriptor_same]

/-- The pools of two losses agree on a descriptor as they did before. -/
theorem abandonedPool_congr {u : State} (receiver : (u.port p).receiver = (s.port p).receiver) {k : DescNo}
    (h : u.pool.descriptor k = (s.purgedPool p).descriptor k) :
    (u.abandonedPool p).descriptor k = (s.lostPool p).descriptor k := by
  by_cases opened : ∃ b, (s.port p).receiver = .inTelegram k b
  · obtain ⟨b, opened⟩ := opened
    rw [abandonedPool_open (receiver.trans opened), lostPool_open opened]
    exact Pool.giveUp_congr h
  · rw [abandonedPool_other fun b now => opened ⟨b, receiver.symm.trans now⟩, h]
    unfold State.lostPool
    split
    · next e b other => exact (Pool.giveUp_other _ fun same => opened ⟨b, by rw [same]; exact other⟩).symm
    all_goals rfl

/-- A loss whose stand-in replies, if any, find no descriptor. -/
theorem portLoss_losing (sound : ExchangesSound s) (others : ∀ q, q ≠ p → (s.scheduler q).phase ≠ .headHeld)
    (depth : s.trunk.pendingDepth = none) (lost : ∀ r ∈ s.exchanges.records, r.target = p → r.isOpen = true →
      r.standIn = false ∨ s.pool.freeDescriptor? = none ∧ (s.scheduler p).queue = []) :
    RecordsLost p s (s.portLoss p admin) (s.notices.purgedOf p (s.scheduler p).queue.length)
        (fun r => if r.standIn then some 4 else none)
      ∧ (s.portLoss p admin).pool = s.lostPool p ∧ OtherPortsKept p s (s.portLoss p admin) := by
  have losing := targetLost_losing (s := s.portDown p admin) (p := p) (by rw [portDown_exchanges]; exact sound.2)
    (portDown_unheld others) (by rw [portDown_trunk]; exact depth) (by
      rw [portDown_exchanges, portDown_pool]
      intro r mem target opened
      refine (lost r mem target opened).imp_right fun ⟨full, empty⟩ => ?_
      unfold State.purgedPool
      rw [empty]
      exact full)
  rw [portDown_doomed, portDown_notices, portDown_exchanges] at losing
  rw [portLoss_eq, losing, abandonTelegram_eq]
  have port : (((s.portDown p admin).withNotices ((s.doomed p).foldl NoticeQueue.losing
      (s.notices.purgedOf p (s.scheduler p).queue.length))).withTable (s.exchanges.afterLoss p)).port p
        = (s.port p).downed admin := portDown_port s p admin
  refine ⟨recordsLost_losing rfl rfl, abandonedPool_lost ?_ portDown_pool, fun q away => ?_⟩
  · exact (congrArg PortState.receiver port).trans rfl
  · exact (State.setPort_port_other _ _ away).trans (portDown_port_other s admin away)

/-- A loss with one stand-in reply, which is stored and taken at another port. -/
theorem portLoss_answered {r : ExchangeRecord} {d : DescNo} {c : CellNo} (sound : ExchangesSound s)
    (others : ∀ q, q ≠ p → (s.scheduler q).phase ≠ .headHeld) (depth : s.trunk.pendingDepth = none) (wf : CellsCanonical s)
    (settings : s.agent.settings.inRanges = true) (loss : LossStandIn p s r d c) :
    LossAnswered p s (s.portLoss p admin) r d c (s.notices.purgedOf p (s.scheduler p).queue.length) := by
  obtain ⟨⟨record, target, opened, standIn⟩, only, away, taken, other⟩ := loss
  have origin : (s.portDown p admin).port r.origin = s.port r.origin := portDown_port_other s admin away
  have offered : StandInTaken (s.portDown p admin) r .unreachable d c := by
    have agent : (s.portDown p admin).agent = s.agent := (congrArg State.agent (portDown_eq s p admin)).trans rfl
    refine ⟨by rw [portDown_pool]; exact taken.descriptor, by rw [portDown_pool]; exact taken.cell, ?_⟩
    rw [agent]
    exact (filter_congr (s := { s with pool := s.purgedPool p }) (congrArg _ origin) (congrArg _ origin)
      (congrArg PortState.scheduler origin) _ _).trans taken.offered
  obtain ⟨stored, notices, table⟩ := targetLost_answered (s := s.portDown p admin) (p := p)
    (by rw [portDown_exchanges]; exact sound.2) (portDown_unheld others) (by rw [portDown_trunk]; exact depth)
    (by rw [portDown_exchanges]; exact record) target opened standIn (by rw [portDown_exchanges]; exact only) offered
  rw [portDown_doomed, portDown_notices] at notices
  rw [portDown_exchanges] at table
  have canonical : CellsCanonical (s.portDown p admin) := by
    unfold CellsCanonical
    rw [portDown_pool]
    exact (congrArg cellsWf (Pool.dropAll_cells _ s.pool)).trans wf
  have settings' : (s.portDown p admin).agent.settings = s.agent.settings :=
    (congrArg (fun t => t.agent.settings) (portDown_eq s p admin)).trans rfl
  rw [portLoss_eq, abandonTelegram_eq]
  generalize (s.portDown p admin).targetLost p = u at stored notices table ⊢
  obtain ⟨n, m, x, shape⟩ := stored.state
  have port (k : Port) (k' : k ≠ r.origin) : u.port k = (s.portDown p admin).port k := by
    rw [shape]
    exact State.setPort_port_other _ _ k'
  have receiver : (u.port p).receiver = (s.port p).receiver := by
    rw [port p (Ne.symm away), portDown_port]
    rfl
  have pool : u.pool = (s.portDown p admin).replyPool r .unreachable d c := by
    rw [shape]
    rfl
  refine ⟨?_, fun k k' => ?_, fun b out => ?_, recordsLost_closing notices table, fun k one two => ?_⟩
  · exact stored.since origin settings' (State.setPort_port_other _ _ away) rfl abandonedPool_cells
      (abandonedPool_other fun b => by rw [receiver]; exact other b) canonical settings
  · refine abandonedPool_congr receiver ?_
    rw [pool, ← portDown_pool (admin := admin)]
    exact Pool.heldReply_other k'
  · refine (congrArg (readCell · b) abandonedPool_cells).trans ?_
    rw [pool]
    refine (Pool.heldReply_stored (standInReply_length (settings' ▸ settings) _ _) b out).trans ?_
    rw [portDown_pool]
    exact congrArg (readCell · b) (Pool.dropAll_cells _ s.pool)
  · exact (State.setPort_port_other _ _ one).trans ((port k two).trans (portDown_port_other s admin one))

end

end Sys2Proof.Machine
end

section
/-! PROOFS. DISABLE and STUCK_FAULT (R112, R131, R156 to R158, R160): the loss of a port as each brings it. -/

namespace Sys2Proof.Machine

/-! ### The blocks and the ports besides the one that is lost -/

/-- Everything a loss of port `p` leaves as it is. -/
structure LossKept (p : Port) (s t : State) : Prop where
  routes : t.routes = s.routes
  agent : t.agent = s.agent
  straps : t.straps = s.straps
  pending : t.pending = s.pending
  ports : ∀ q, q ≠ p → (t.port q).admin = (s.port q).admin ∧ (t.port q).lastFault = (s.port q).lastFault
    ∧ (t.port q).monitor = (s.port q).monitor ∧ (t.port q).counters = (s.port q).counters

theorem portLoss_kept (s : State) (p : Port) (admin : AdminState) : LossKept p s (s.portLoss p admin) := by
  have ripple := targetLost_ripple (s.portDown p admin) p
  have down := portDown_eq s p admin
  have routes : (s.portDown p admin).routes = s.routes := (congrArg State.routes down).trans rfl
  have agent : (s.portDown p admin).agent = s.agent := (congrArg State.agent down).trans rfl
  have straps : (s.portDown p admin).straps = s.straps := (congrArg State.straps down).trans rfl
  have pending : (s.portDown p admin).pending = s.pending := (congrArg State.pending down).trans rfl
  rw [portLoss_eq]
  generalize (s.portDown p admin).targetLost p = u at ripple ⊢
  have gone := abandonTelegram_eq u p .off
  refine ⟨((congrArg State.routes gone).trans ripple.routes).trans routes,
    ((congrArg State.agent gone).trans ripple.agent).trans agent,
    ((congrArg State.straps gone).trans ripple.straps).trans straps,
    ((congrArg State.pending gone).trans ripple.pending).trans pending, fun q away => ?_⟩
  obtain ⟨admin', fault, monitor, -, counters, -⟩ := ripple.kept q
  rw [portDown_port_other s admin away] at admin' fault monitor counters
  rw [abandonTelegram_port_other u .off away]
  exact ⟨admin', fault, monitor, counters⟩

theorem abandonCounted {x y : PortState} (h : y.counters = x.abandonedCounters) (bounded : x.counters.rxDiscarded ≤ 65535) :
    AbandonCounted x y := by
  unfold AbandonCounted
  rw [h]
  unfold PortState.abandonedCounters
  rw [← bump_eq_min bounded]
  cases x.receiver <;> rfl

/-- The pool of a loss without stand-in replies keeps every stored character. -/
theorem portLoss_cells {s : State} {p : Port} {admin : AdminState}
    (plain : ∀ r ∈ s.exchanges.records, r.target = p → r.isOpen = true → r.standIn = false) :
    (s.portLoss p admin).pool.cells = s.pool.cells := by
  have pool := targetLost_pool (s := s.portDown p admin) (p := p) (by rw [portDown_exchanges]; exact plain)
  rw [portLoss_eq, abandonTelegram_eq]
  generalize (s.portDown p admin).targetLost p = u at pool ⊢
  refine (abandonedPool_cells (s := u) (p := p)).trans ?_
  rw [pool, portDown_pool]
  exact Pool.dropAll_cells _ s.pool

/-! ### The same loss from an earlier state of the step -/

/-- The state that loses port `p` is `s` in everything the loss reads: the other ports, the port's own receiver and
scheduler, the storage, the records and the settings. -/
structure LossStart (p : Port) (s f : State) : Prop where
  port : ∀ q, q ≠ p → f.port q = s.port q
  receiver : (f.port p).receiver = (s.port p).receiver
  scheduler : f.scheduler p = s.scheduler p
  pool : f.pool = s.pool
  exchanges : f.exchanges = s.exchanges
  settings : f.agent.settings = s.agent.settings

namespace LossStart
variable {p : Port} {s f t : State}

theorem purgedPool (h : LossStart p s f) : f.purgedPool p = s.purgedPool p := by
  unfold State.purgedPool
  rw [h.scheduler, h.pool]

theorem lostPool (h : LossStart p s f) : f.lostPool p = s.lostPool p := by
  unfold State.lostPool
  rw [h.receiver, h.purgedPool]

theorem recordsLost (h : LossStart p s f) {q : NoticeQueue} {why : ExchangeRecord → Option Word16} (l : RecordsLost p f t q why) :
    RecordsLost p s t q why := by
  unfold RecordsLost at l ⊢
  rw [h.exchanges] at l
  exact l

theorem standIn (h : LossStart p s f) {r : ExchangeRecord} {d : DescNo} {c : CellNo} (l : LossStandIn p s r d c) :
    LossStandIn p f r d c := by
  obtain ⟨record, only, away, ⟨descriptor, cell, offered⟩, other⟩ := l
  have origin := h.port r.origin away
  refine ⟨by rw [h.exchanges]; exact record, by rw [h.exchanges]; exact only, away,
    ⟨by rw [h.purgedPool]; exact descriptor, by rw [h.purgedPool]; exact cell, ?_⟩, by rw [h.receiver]; exact other⟩
  rw [show ({ f with pool := f.purgedPool p } : State).agent.settings = s.agent.settings from h.settings]
  exact (filter_congr (s := { s with pool := s.purgedPool p }) (congrArg _ origin) (congrArg _ origin)
    (congrArg PortState.scheduler origin) _ _).trans offered

theorem freed (h : LossStart p s f) (l : AbandonedFreed p f t) : AbandonedFreed p s t := by
  unfold AbandonedFreed at l ⊢
  rw [h.receiver, h.scheduler, h.pool] at l
  exact l

theorem answered (h : LossStart p s f) {r : ExchangeRecord} {d : DescNo} {c : CellNo} {q : NoticeQueue} (away : r.origin ≠ p)
    (l : LossAnswered p f t r d c q) : LossAnswered p s t r d c q := by
  obtain ⟨⟨telegram, held, queue, behind, decided⟩, descriptors, stored, records, ports⟩ := l
  have origin := h.port r.origin away
  have scheduler : f.scheduler r.origin = s.scheduler r.origin := congrArg PortState.scheduler origin
  rw [scheduler] at queue behind decided
  rw [origin] at behind
  rw [h.settings] at telegram
  unfold StoredKept at stored
  rw [h.pool] at stored
  rw [h.lostPool] at descriptors
  refine ⟨⟨telegram, held, queue, behind, fun empty => ?_⟩, descriptors, stored, h.recordsLost records,
    fun k one two => (ports k one two).trans (h.port k one)⟩
  have now := decided empty
  unfold HeadDecided at now ⊢
  rw [origin, scheduler] at now
  exact now

end LossStart

/-! ### STUCK_FAULT -/

/-- The state in which a stuck line faults its port (R131, R157). -/
def State.stuckAt (s : State) (p : Port) : State :=
  (s.setPort p { s.port p with
    spaceCount := max (s.port p).spaceCount (s.port p).format.stuckLimit, lastFault := some .stuck }).withNotices
    (s.notices.post .portFaulted (some p) none (some 1))

theorem exec_stuckFault {s : State} {p : Port} (branch : p.isBranch = true) (active : (s.port p).admin = .active)
    (space : (s.port p).rxPin = .space) : exec (.stuckFault p) s = .next ((s.stuckAt p).portLoss p .faulted) := by
  have now : (s.onPort p fun x => { x with spaceCount := max x.spaceCount x.format.stuckLimit }).faultPort p .stuck
      = (s.stuckAt p).portLoss p .faulted := by
    unfold State.faultPort
    rw [if_pos ⟨branch, by rw [State.onPort_port]; exact active⟩, State.onPort_onPort]
    rfl
  change execStuckFault p s = _
  unfold execStuckFault
  exact (if_pos ⟨branch, active, space⟩).trans (congrArg _ now)

theorem stuckAt_start (s : State) (p : Port) : LossStart p s (s.stuckAt p) := by
  have port : (s.stuckAt p).port p = { s.port p with
      spaceCount := max (s.port p).spaceCount (s.port p).format.stuckLimit, lastFault := some .stuck } := State.setPort_port _ _ _
  exact ⟨fun q away => State.setPort_port_other _ _ away, (congrArg PortState.receiver port).trans rfl,
    (congrArg PortState.scheduler port).trans rfl, rfl, rfl, rfl⟩

/-- Settles O8: the fault's own changes, then the loss of the port. -/
theorem stuckFaultTakesBranchDown : Obligations.StuckFaultTakesBranchDown := by
  intro p s branch active space
  have other : p ≠ .trunk := isBranch_iff.mp branch
  have start := stuckAt_start s p
  have port : ((s.stuckAt p).portLoss p .faulted).port p = _ := portLoss_port (s.stuckAt p) other nofun
  have before : (s.stuckAt p).port p = { s.port p with
      spaceCount := max (s.port p).spaceCount (s.port p).format.stuckLimit, lastFault := some .stuck } := State.setPort_port _ _ _
  rw [before] at port
  have kept := portLoss_kept (s.stuckAt p) p .faulted
  have scheduler := congrArg PortState.scheduler port
  refine ⟨_, exec_stuckFault branch active space, congrArg PortState.admin port, congrArg PortState.lastFault port,
    congrArg PortState.receiver port, congrArg Scheduler.queue scheduler, congrArg Scheduler.phase scheduler,
    congrArg Scheduler.attempts scheduler, (congrArg Scheduler.abandons scheduler).trans rfl, congrArg PortState.transmitter port,
    (congrArg PortState.monitor port).trans rfl, portLoss_records (s.stuckAt p) other nofun, fun room => ?_, fun q away => ?_, kept.routes,
    kept.agent, kept.straps, kept.pending, fun bounded => ?_, ?_, fun plain a => ?_, fun sound others depth lost => ?_,
    fun r d c sound others depth wf settings loss => ?_⟩
  · exact post_stays (s := s) (portLoss_grows (s.stuckAt p) p .faulted) room
  · have ports := kept.ports q away
    rw [start.port q away] at ports
    exact ports
  · exact abandonCounted (congrArg PortState.counters port) bounded
  · exact start.freed (portLoss_freed (s := s.stuckAt p) other nofun)
  · rw [portLoss_cells (s := s.stuckAt p) plain]
    rfl
  · obtain ⟨records, pool, -⟩ := portLoss_losing (s := s.stuckAt p) (admin := .faulted) sound (p := p) (fun q away => by
      rw [State.scheduler_def, start.port q away]; exact others q away) depth (fun r mem target opened => by
        rw [start.scheduler]; exact lost r mem target opened)
    rw [start.scheduler] at records
    exact ⟨start.recordsLost records, pool.trans start.lostPool⟩
  · have answered := portLoss_answered (s := s.stuckAt p) (admin := .faulted) sound (p := p) (fun q away => by
      rw [State.scheduler_def, start.port q away]; exact others q away) depth wf settings (start.standIn loss)
    rw [start.scheduler] at answered
    exact start.answered loss.origin answered

end Sys2Proof.Machine
end

section
/-! PROOFS. DISABLE (R112, R156, R160): the loss of a branch inside the command that answers it. -/

namespace Sys2Proof.Machine

/-! ### The end of a loss: the fields the port and the agent take after it -/

/-- State `u` is `t` in everything a loss of port `p` is judged by after it. -/
structure LossEnd (p : Port) (t u : State) : Prop where
  port : ∀ q, q ≠ p → u.port q = t.port q
  pool : u.pool = t.pool
  exchanges : u.exchanges = t.exchanges
  notices : u.notices = t.notices

namespace LossEnd
variable {p : Port} {s t u : State}

theorem recordsLost (h : LossEnd p t u) {q : NoticeQueue} {why : ExchangeRecord → Option Word16} (l : RecordsLost p s t q why) :
    RecordsLost p s u q why := by
  unfold RecordsLost at l ⊢
  rw [h.notices, h.exchanges]
  exact l

theorem answered (h : LossEnd p t u) {r : ExchangeRecord} {d : DescNo} {c : CellNo} {q : NoticeQueue} (away : r.origin ≠ p)
    (l : LossAnswered p s t r d c q) : LossAnswered p s u r d c q := by
  obtain ⟨⟨telegram, held, queue, behind, decided⟩, descriptors, stored, records, ports⟩ := l
  have origin := h.port r.origin away
  have scheduler : u.scheduler r.origin = t.scheduler r.origin := congrArg PortState.scheduler origin
  unfold StoredKept at stored
  rw [← h.pool] at telegram held descriptors stored
  rw [← scheduler] at queue
  rw [← origin] at behind
  refine ⟨⟨telegram, held, queue, behind, fun empty => ?_⟩, descriptors, stored, h.recordsLost records,
    fun k one two => (h.port k one).trans (ports k one two)⟩
  have now := decided empty
  unfold HeadDecided at now ⊢
  rw [h.exchanges, origin]
  exact now

end LossEnd

/-! ### DISABLE -/

section
variable {s : State} {p : Port}

theorem doDisable_trunk : s.doDisable .trunk = (s, Answer.refuse .state) := rfl

theorem doDisable_disabled (branch : p ≠ .trunk) (down : (s.port p).admin = .disabled) :
    s.doDisable p = (s, Answer.okWith []) := by
  unfold State.doDisable
  rw [if_pos (isBranch_iff.mpr branch), down]

theorem doDisable_faulted (branch : p ≠ .trunk) (faulted : (s.port p).admin = .faulted) :
    s.doDisable p = (s.setPort p { s.port p with admin := .disabled, lastFault := none }, Answer.okWith []) := by
  unfold State.doDisable
  rw [if_pos (isBranch_iff.mpr branch), faulted]
  rfl

theorem doDisable_active (branch : p ≠ .trunk) (active : (s.port p).admin = .active) :
    s.doDisable p = ((s.portLoss p .disabled).onPort p fun x => { x with lastFault := none }, Answer.okWith []) := by
  unfold State.doDisable
  rw [if_pos (isBranch_iff.mpr branch), active]

theorem portLoss_canonical (branch : p ≠ .trunk) (active : (s.port p).admin = .active) (wf : CellsCanonical s) :
    CellsCanonical (s.portLoss p .disabled) :=
  (portLoss_moves s [] [] p .disabled (isBranch_iff.mpr branch) active nofun).invariant (I := fun s _ => CellsCanonical s)
    Move.cellsCanonical wf

end

/-- The state in which DISABLE of branch `p` forms its reply. -/
def State.disabledAt (s : State) (p : Port) (id : RequestId) : State :=
  (((s.withAgent { s.agent with executing := some id }).portLoss p .disabled).onPort p fun x => { x with lastFault := none }).withAgent
    s.agent

section
variable {s : State} {p : Port} {id : RequestId}

theorem executing_start (s : State) (p : Port) (id : RequestId) : LossStart p s (s.withAgent { s.agent with executing := some id }) :=
  ⟨fun _ _ => rfl, rfl, rfl, rfl, rfl, rfl⟩

theorem disabledAt_end (s : State) (p : Port) (id : RequestId) :
    LossEnd p ((s.withAgent { s.agent with executing := some id }).portLoss p .disabled) (s.disabledAt p id) :=
  ⟨fun _ away => State.setPort_port_other _ _ away, rfl, rfl, rfl⟩

theorem disabledAt_port (branch : p ≠ .trunk) : (s.disabledAt p id).port p =
    { (s.port p).downed .disabled with receiver := .off, counters := (s.port p).abandonedCounters, lastFault := none } := by
  have port := portLoss_port (s.withAgent { s.agent with executing := some id }) branch (admin := .disabled) nofun
  have last : (s.disabledAt p id).port p
      = { ((s.withAgent { s.agent with executing := some id }).portLoss p .disabled).port p with lastFault := none } :=
    State.setPort_port _ _ _
  rw [last, port]
  rfl

theorem disabledAt_freed (branch : p ≠ .trunk) : AbandonedFreed p s (s.disabledAt p id) :=
  (executing_start s p id).freed
    (portLoss_freed (s := s.withAgent { s.agent with executing := some id }) branch (admin := .disabled) nofun)

theorem disabledAt_losing (sound : ExchangesSound s) (others : ∀ q, q ≠ p → (s.scheduler q).phase ≠ .headHeld)
    (depth : s.trunk.pendingDepth = none) (lost : ∀ r ∈ s.exchanges.records, r.target = p → r.isOpen = true →
      r.standIn = false ∨ s.pool.freeDescriptor? = none ∧ (s.scheduler p).queue = []) :
    RecordsLost p s (s.disabledAt p id) (s.notices.purgedOf p (s.scheduler p).queue.length)
        (fun r => if r.standIn then some 4 else none)
      ∧ (s.disabledAt p id).pool = s.lostPool p := by
  have start := executing_start s p id
  obtain ⟨records, pool, -⟩ := portLoss_losing (s := s.withAgent { s.agent with executing := some id }) (admin := .disabled)
    sound others depth lost
  exact ⟨start.recordsLost ((disabledAt_end s p id).recordsLost records), pool.trans start.lostPool⟩

theorem disabledAt_answered {r : ExchangeRecord} {d : DescNo} {c : CellNo} (sound : ExchangesSound s)
    (others : ∀ q, q ≠ p → (s.scheduler q).phase ≠ .headHeld) (depth : s.trunk.pendingDepth = none) (wf : CellsCanonical s)
    (settings : s.agent.settings.inRanges = true) (loss : LossStandIn p s r d c) :
    LossAnswered p s (s.disabledAt p id) r d c (s.notices.purgedOf p (s.scheduler p).queue.length) := by
  have start := executing_start s p id
  exact start.answered loss.origin ((disabledAt_end s p id).answered loss.origin
    (portLoss_answered (s := s.withAgent { s.agent with executing := some id }) (admin := .disabled) sound others depth wf
      settings (start.standIn loss)))

/-- The purge of the queue is posted first (entry 4). -/
theorem disabledAt_purged (waits : (s.scheduler p).queue ≠ []) (room : s.notices.records.length < Config.noticeCount) :
    (s.disabledAt p id).notices.records[s.notices.records.length]? = some
      ⟨s.notices.nextStamp, .purged, some p, none, some (BitVec.ofNat 16 (s.scheduler p).queue.length)⟩ := by
  have grows : NoticesGrow ((s.withAgent { s.agent with executing := some id }).portDown p .disabled)
      ((s.withAgent { s.agent with executing := some id }).portLoss p .disabled) := by
    rw [portLoss_eq]
    exact (targetLost_grows _ p).trans (.of_eq (abandonTelegram_notices _ _ _))
  have purged : ((s.withAgent { s.agent with executing := some id }).portDown p .disabled).notices
      = (s.post .purged (some p) none (some (BitVec.ofNat 16 (s.scheduler p).queue.length))).notices := by
    rw [portDown_notices]
    exact if_neg (fun none => waits (List.length_eq_zero_iff.mp none))
  exact post_stays (s := s) ((NoticesGrow.of_eq purged).trans grows) room

theorem exec_disable {seq : Chr} (branch : p ≠ .trunk) (active : (s.port p).admin = .active) (wf : CellsCanonical s)
    (ready : Ready s ⟨seq, 0x05⟩) :
    ∃ t, exec (.disable seq p.toChr) s = .next t ∧ Replied (s.disabledAt p ⟨seq, 0x05⟩) t ⟨seq, 0x05⟩ ⟨.ok, []⟩ := by
  have cells := portLoss_canonical (s := s.withAgent { s.agent with executing := some ⟨seq, 0x05⟩ }) branch active wf
  exact portControl_answers (s := s) (c := .disable seq p.toChr) (seq := seq) (b := p.toChr) (k := 1) (a := Answer.okWith []) rfl
    ready (doPortControl_eq (Port.ofChr_toChr p) (doDisable_active branch active)) (portLoss_agent _ p .disabled) cells
    (Nat.zero_le _)

end

section
variable {s u t : State} {p : Port} {id : RequestId} {a : Answer}

/-- The reply leaves what a loss did to the records and the notices. -/
theorem RecordsLost.replied {q : NoticeQueue} {why : ExchangeRecord → Option Word16} (l : RecordsLost p s u q why)
    (replied : Replied u t id a) : RecordsLost p s t q why := by
  unfold RecordsLost at l ⊢
  rw [replied.notices, replied.exchanges]
  exact l

/-- The reply leaves what a loss freed. -/
theorem AbandonedFreed.replied (l : AbandonedFreed p s u) (replied : Replied u t id a) : AbandonedFreed p s t := by
  intro d b receiver general receiving refs unnamed
  rw [replied.descriptors d general, replied.free]
  exact l d b receiver general receiving refs unnamed

end

/-- Settles O41: the loss of the branch, then the reply, which leaves every block of the loss as it is. -/
theorem disableTakesBranchDown : Obligations.DisableTakesBranchDown := by
  refine ⟨fun seq v s wf ready above =>
    ⟨_, exec_portControl rfl ready, .of_result (doPortControl_range (.inl above)) wf (Nat.zero_le _)⟩, fun seq p s wf ready => ?_⟩
  by_cases active : p ≠ .trunk ∧ (s.port p).admin = .active
  · obtain ⟨branch, active⟩ := active
    obtain ⟨t, run, replied⟩ := exec_disable branch active wf ready
    have port : t.port p = _ := (replied.branches p branch).trans (disabledAt_port branch)
    have scheduler := congrArg PortState.scheduler port
    refine ⟨t, run, fun _ _ bounded => ⟨congrArg PortState.admin port, congrArg PortState.lastFault port,
      congrArg PortState.receiver port, congrArg Scheduler.queue scheduler, congrArg Scheduler.phase scheduler,
      (congrArg Scheduler.abandons scheduler).trans rfl, congrArg PortState.transmitter port,
      abandonCounted (congrArg PortState.counters port) bounded, ?_, fun waits room => ?_, congrArg Agent.replay replied.agent,
      congrArg Agent.executing replied.agent, replied.routes.trans ?_, fun sound others depth lost => ?_, ?_,
      _, replied, fun sound others depth lost => (disabledAt_losing sound others depth lost).2,
      fun r d c sound others depth settings loss => disabledAt_answered sound others depth wf settings loss⟩,
      fun _ faulted => absurd (active.symm.trans faulted) nofun, fun _ down => absurd (active.symm.trans down) nofun,
      fun trunk => absurd trunk branch⟩
    · rw [replied.exchanges]
      exact portLoss_records (s.withAgent { s.agent with executing := some ⟨seq, 0x05⟩ }) branch nofun
    · rw [replied.notices]
      exact disabledAt_purged waits room
    · exact (portLoss_kept (s.withAgent { s.agent with executing := some ⟨seq, 0x05⟩ }) p .disabled).routes
    · exact (disabledAt_losing sound others depth lost).1.replied replied
    · exact (disabledAt_freed branch).replied replied
  · refine ⟨_, exec_portControl rfl ready, fun branch up => absurd ⟨branch, up⟩ active, fun branch faulted => ?_,
      fun branch down => ?_, fun trunk => ?_⟩
    · exact .of_result (doPortControl_eq (Port.ofChr_toChr p) (doDisable_faulted branch faulted)) wf (Nat.zero_le _)
    · exact .of_result (doPortControl_eq (Port.ofChr_toChr p) (doDisable_disabled branch down)) wf (Nat.zero_le _)
    · subst trunk
      exact .of_result (doPortControl_eq (Port.ofChr_toChr .trunk) doDisable_trunk) wf (Nat.zero_le _)

end Sys2Proof.Machine
end

section
/-! PROOFS. Collisions past the retry limit (R102, R104, R106, R107): the line as the collision leaves it, the head that
leaves, and what its port keeps while its record closes. -/

namespace Sys2Proof.Machine

/-! ### The collision on the line (R102, R115) -/

/-- State `u` is `s` with the line of port `p` as the collision `c` leaves it, and on the trunk the break. -/
structure CollisionSeen (p : Port) (c : Instr) (s u : State) : Prop where
  state : ∃ l b, u = (s.setPort p ((s.port p).withLine l)).withTrunk { s.trunk with breakState := b }
  line : CollisionLine p c s u
  limit : c = .echoMissing p → (u.port p).limitReached = (s.port p).limitReached

namespace CollisionSeen
variable {p : Port} {c : Instr} {s u : State}

theorem port (h : CollisionSeen p c s u) : u.port p = (s.port p).withLine (u.port p) := by
  obtain ⟨l, b, rfl⟩ := h.state
  have port : ((s.setPort p ((s.port p).withLine l)).withTrunk { s.trunk with breakState := b }).port p
      = (s.port p).withLine l := State.setPort_port _ _ _
  rw [port]
  rfl

theorem others (h : CollisionSeen p c s u) : OtherPortsKept p s u := by
  obtain ⟨l, b, rfl⟩ := h.state
  exact fun q away => State.setPort_port_other _ _ away

end CollisionSeen

theorem PortState.reported_seen {x : PortState} (f : FormatRecord) (r : CharReport) (h : x.rxPin = .space → x.monitor ≠ .released) :
    (x.reported f r).monitor ≠ .released ∧ (x.reported f r).markSpan = 0
      ∧ (x.reported f r).rxPin = if r.stopSpace then .space else .mark := by
  unfold PortState.reported
  cases r.stopSpace with
  | false => exact ⟨PortState.characterEnded_seen x.markSeen f.stopTail, rfl, rfl⟩
  | true =>
    cases pin : x.rxPin with
    | mark => exact ⟨PortState.characterEnded_seen x 0, rfl, rfl⟩
    | space => exact ⟨h pin, rfl, pin⟩

theorem missing_seen (s : State) (p : Port) :
    CollisionSeen p (.echoMissing p) s (s.setPort p ((s.port p).characterEnded 0)) := by
  have port : (s.setPort p ((s.port p).characterEnded 0)).port p = (s.port p).characterEnded 0 := State.setPort_port _ _ _
  refine ⟨⟨(s.port p).characterEnded 0, s.trunk.breakState, rfl⟩, ⟨?_, ?_, fun _ => ⟨rfl, ?_⟩, nofun⟩, fun _ => ?_⟩
  all_goals rw [port]
  · rfl
  · exact PortState.characterEnded_seen (s.port p) 0
  · exact ⟨rfl, rfl, rfl, rfl, rfl⟩
  · rfl

theorem report_seen {s : State} {p : Port} (v : Chr) (m pb : Bool) (err : Option CharError)
    (known : (s.port p).rxPin = .space → (s.port p).monitor ≠ .released) :
    CollisionSeen p (.characterReport p v m pb err) s (s.seen p v m pb err) := by
  have port := seen_port s p v m pb err
  obtain ⟨monitor, span, pin⟩ :=
    PortState.reported_seen (s.port p).charFormat ((s.port p).charFormat.taken v m pb err) known
  refine ⟨⟨(s.seen p v m pb err).port p, (s.seen p v m pb err).trunk.breakState, ?_⟩, ⟨?_, ?_, nofun, fun v' m' pb' err' same => ?_⟩, nofun⟩
  · rw [← seen_port_line, seen_port, seen_eq]
  · rw [port]
    exact span
  · rw [port]
    exact monitor
  · obtain ⟨-, -, -, -, rfl⟩ := same
    refine ⟨by rw [seen_eq], ?_, seen_charReceiver s p v m pb err⟩
    rw [port, pin]
    exact if_congr (taken_stopSpace _ v m pb err) rfl rfl

theorem exec_echoMissing {s : State} {p : Port} {e : QueueEntry} {rest : List QueueEntry} {pos : Nat}
    (phase : (s.scheduler p).phase = .onLine) (queue : (s.scheduler p).queue = e :: rest)
    (receiver : (s.port p).receiver = .echo pos) (inside : pos < (s.pool.descriptor e.desc).length) :
    exec (.echoMissing p) s = .next ((s.setPort p ((s.port p).characterEnded 0)).collide p e) := by
  change execEchoMissing p s = _
  unfold execEchoMissing
  rw [onLine_of_echo phase queue receiver]
  exact if_pos inside

/-- Either collision acts on the state in which the line has seen it. -/
theorem collision_seen {s : State} {p : Port} {e : QueueEntry} {rest : List QueueEntry} {pos : Nat} {c : Instr}
    (phase : (s.scheduler p).phase = .onLine) (queue : (s.scheduler p).queue = e :: rest)
    (receiver : (s.port p).receiver = .echo pos) (inside : pos < (s.pool.descriptor e.desc).length)
    (collision : Collision p s e pos c) : ∃ u, exec c s = .next (u.collide p e) ∧ CollisionSeen p c s u := by
  obtain rfl | ⟨v, m, pb, err, f, i, bit, tick, ls, cut, rfl, sending, format, width, framing, parity, bad, known, differs⟩ :=
    collision
  · exact ⟨_, exec_echoMissing phase queue receiver inside, missing_seen s p⟩
  · have wrong := mt (echoGood_iff (s.pool.sentChar e pos) pos width framing parity bad).mp differs
    exact ⟨_, (exec_echo phase queue receiver inside sending format).trans (congrArg _ (if_neg wrong)), report_seen v m pb err known⟩

/-! ### The head that leaves (R86, R104, R106) -/

/-- The port of a head abandoned on the line, its abandon not yet counted and its next head not yet decided. -/
def PortState.dropped (x : PortState) : PortState :=
  { x with
    transmitter := x.transmitter.cutShort
    counters := { x.counters with collisions := min 65535 (x.counters.collisions + 1) }
    scheduler := { x.scheduler with queue := x.scheduler.queue.tail, phase := .empty, attempts := 0, backoffGap := 0 } }

/-- The state once the abandoned head has left and TX_ABANDONED is posted. -/
def State.headDropped (s : State) (p : Port) (e : QueueEntry) : State :=
  ((s.withPool (s.pool.dropRef e.desc)).setPort p (s.port p).dropped).withNotices
    (s.notices.post .txAbandoned (some p) (some e.line) none)

/-- The state once its record has closed and the consecutive abandon is counted. -/
def State.headAbandoned (s : State) (p : Port) (e : QueueEntry) : State :=
  ((s.headDropped p e).requestLost p e.desc).onScheduler p fun c => { c with abandons := min 15 (c.abandons + 1) }

/-- What ends an abandon, the reply's leaving acted on: the fault of a branch at its limit, or the next head. -/
def State.abandonEnd (s : State) (p : Port) : State :=
  if p.isBranch ∧ (s.port p).format.abandonLimit ≤ (s.scheduler p).abandons then s.faultPort p .contention
  else s.decideHead p

theorem collide_abandons {s : State} {p : Port} {e : QueueEntry} (bounded : (s.port p).counters.collisions ≤ 65535)
    (past : (s.port p).format.retryLimit < (s.scheduler p).attempts + 1) :
    s.collide p e = (if e.desc = 0 then (s.headAbandoned p e).replyLeft else s.headAbandoned p e).abandonEnd p := by
  have dropped : (((((s.count p Counters.addCollision).onPort p fun x => { x with transmitter := x.transmitter.cutShort }).onScheduler
      p fun c => { c with attempts := (s.scheduler p).attempts + 1 }).popHead p e).post .txAbandoned (some p) (some e.line) none)
        = s.headDropped p e := by
    have pool : ∀ (f : PortState → PortState) (q : Pool), ({ s.onPort p f with pool := q } : State) = (s.withPool q).onPort p f :=
      fun _ _ => rfl
    unfold State.popHead State.count State.onScheduler
    rw [State.onPort_onPort, State.onPort_onPort, pool, State.onPort_onPort]
    unfold State.headDropped PortState.dropped
    rw [← bump_eq_min bounded]
    rfl
  unfold State.collide
  extract_lets n f cut
  rw [if_neg (Nat.not_le.mpr past)]
  unfold State.abandonHead
  rw [dropped]
  rfl

/-! ### What a busy port keeps while records close -/

/-- Port `p` as `s` has it but for the queue and the phase of its scheduler, no overlap depth waiting. -/
structure LineWaits (p : Port) (s t : State) : Prop where
  depth : t.trunk.pendingDepth = none
  port : t.port p = { s.port p with scheduler := t.scheduler p }
  attempts : (s.scheduler p).attempts = 0 → (t.scheduler p).attempts = 0
  abandons : (t.scheduler p).abandons = (s.scheduler p).abandons
  backoffGap : (t.scheduler p).backoffGap = (s.scheduler p).backoffGap

/-- The line of port `p` is not RELEASED and no overlap depth waits. -/
structure LineBusy (p : Port) (s : State) : Prop where
  seen : (s.port p).monitor ≠ .released
  depth : s.trunk.pendingDepth = none

namespace LineWaits
variable {p : Port} {s t u : State}

theorem of_port (depth : t.trunk.pendingDepth = none) (port : t.port p = s.port p) : LineWaits p s t := by
  have scheduler : t.scheduler p = s.scheduler p := congrArg PortState.scheduler port
  refine ⟨depth, ?_, ?_, ?_, ?_⟩
  all_goals rw [scheduler]
  · exact port
  · exact id

theorem refl (depth : s.trunk.pendingDepth = none) : LineWaits p s s := .of_port depth rfl

theorem trans (a : LineWaits p s t) (b : LineWaits p t u) : LineWaits p s u := by
  refine ⟨b.depth, ?_, fun zero => b.attempts (a.attempts zero), b.abandons.trans a.abandons, b.backoffGap.trans a.backoffGap⟩
  rw [b.port, a.port, State.scheduler_def, State.scheduler_def, b.port]

theorem busy (a : LineWaits p s t) (h : LineBusy p s) : LineBusy p t := by
  refine ⟨?_, a.depth⟩
  rw [a.port]
  exact h.seen

/-- An entry that joins a queue. -/
theorem queue (depth : s.trunk.pendingDepth = none) (q : Port) (l : List QueueEntry) :
    LineWaits p s (s.setPort q { s.port q with scheduler := { s.scheduler q with queue := l } }) := by
  by_cases same : p = q
  · subst same
    have scheduler := setPort_scheduler s p { s.scheduler p with queue := l }
    refine ⟨depth, ?_, ?_, ?_, ?_⟩
    all_goals rw [scheduler]
    · exact State.setPort_port _ _ _
    · exact id
  · exact .of_port depth (State.setPort_port_other _ _ same)

end LineWaits

section
variable {p : Port} {s : State}

theorem decideHead_lineWaits (h : LineBusy p s) (q : Port) : LineWaits p s (s.decideHead q) := by
  have attempt := decideHead_attemptOnly s q
  have depth : (s.decideHead q).trunk.pendingDepth = none := (congrArg TrunkState.pendingDepth attempt.blocks.1).trans h.depth
  by_cases same : p = q
  · subst same
    have waits := decideHead_busy (PortState.lineFree_seen h.seen)
    have port := congrArg (fun t => State.port t p) waits.port
    rw [State.setPort_port] at port
    exact ⟨depth, port, waits.attempts, waits.abandons, waits.backoffGap⟩
  · exact .of_port depth (attempt.others p same)

theorem redecide_lineWaits (h : LineBusy p s) : LineWaits p s s.redecide := by
  have all (l : List Port) : ∀ {t : State}, LineBusy p t → LineWaits p t (l.foldl State.redecidePort t) := by
    induction l with
    | nil => exact fun b => .refl b.depth
    | cons q l ih =>
      intro t b
      have first : LineWaits p t (t.redecidePort q) := by
        unfold State.redecidePort
        split
        · exact decideHead_lineWaits b q
        · exact .refl b.depth
      exact first.trans (ih (first.busy b))
  exact all Port.all h

theorem tableChanged_lineWaits (h : LineBusy p s) : LineWaits p s s.tableChanged := by
  unfold State.tableChanged
  rw [settleDepth_idle h.depth]
  exact redecide_lineWaits h

theorem tableReplaced_lineWaits (h : LineBusy p s) (m : ExchangeMonitor) : LineWaits p s (s.withTable m).tableChanged := by
  have replaced : LineWaits p s (s.withTable m) := .of_port h.depth rfl
  exact replaced.trans (tableChanged_lineWaits (replaced.busy h))

theorem enqueue_lineWaits (h : LineBusy p s) (q : Port) (e : QueueEntry) : LineWaits p s (s.enqueue q e) := by
  have start : LineWaits p s (s.withPool (s.pool.addRef e.desc)) := .of_port h.depth rfl
  have joined : LineWaits p s
      (({ s with pool := s.pool.addRef e.desc } : State).onScheduler q fun c => { c with queue := c.queue ++ [e] }) :=
    start.trans (.queue (s := s.withPool (s.pool.addRef e.desc)) h.depth q ((s.scheduler q).queue ++ [e]))
  unfold State.enqueue
  dsimp only
  split
  · exact joined.trans (decideHead_lineWaits (joined.busy h) q)
  · exact joined

/-- An entry that joins a queue, the pool changed before it and after it. -/
theorem enqueue_between (h : LineBusy p s) (a : Pool) (q : Port) (e : QueueEntry) (b : Pool) :
    LineWaits p s (((s.withPool a).enqueue q e).withPool b) := by
  have start : LineWaits p s (s.withPool a) := .of_port h.depth rfl
  have joined := enqueue_lineWaits (start.busy h) q e
  exact (start.trans joined).trans (.of_port joined.depth rfl)

theorem standIn_lineWaits (h : LineBusy p s) (r : ExchangeRecord) (o : CloseOutcome) : LineWaits p s (s.standIn r o) := by
  unfold State.standIn
  split
  · exact .of_port h.depth rfl
  · exact .of_port h.depth rfl
  · next d c q _ _ =>
    dsimp only
    split
    · exact enqueue_between h _ r.origin _ _
    · exact .of_port h.depth rfl

theorem closeExchange_lineWaits (h : LineBusy p s) (r : ExchangeRecord) (o : CloseOutcome) :
    LineWaits p s (s.closeExchange r o) := by
  have posted : LineWaits p s (s.closePosted r o) := by
    unfold State.closePosted
    dsimp only
    split
    · have noted : LineWaits p s (s.post .exchangeClosed (some r.target) (some r.line) (some o.code)) := .of_port h.depth rfl
      exact noted.trans (standIn_lineWaits (noted.busy h) r o)
    · exact .of_port h.depth rfl
  rw [closeExchange_eq]
  exact posted.trans (tableReplaced_lineWaits (posted.busy h) (s.exchanges.closed r o))

theorem requestLost_lineWaits (h : LineBusy p s) (q : Port) (d : DescNo) : LineWaits p s (s.requestLost q d) := by
  unfold State.requestLost
  split
  · exact closeExchange_lineWaits h _ _
  · exact .refl h.depth

theorem closeAll_lineWaits (rs : List ExchangeRecord) : ∀ {t : State}, LineBusy p t → LineWaits p t (t.closeAll rs) := by
  induction rs with
  | nil => exact fun b => .refl b.depth
  | cons r rs ih =>
    intro t b
    have first := closeExchange_lineWaits b r .unreachable
    rw [closeAll_cons]
    exact first.trans (ih (first.busy b))

theorem targetLost_lineWaits (h : LineBusy p s) (q : Port) : LineWaits p s (s.targetLost q) := by
  have closed := closeAll_lineWaits (s.doomed q) h
  rw [targetLost_eq]
  exact closed.trans (tableReplaced_lineWaits (closed.busy h) ((s.closeAll (s.doomed q)).exchanges.dropLate q))

/-- The loss of a port leaves the trunk's blocks where no overlap depth waits. -/
theorem portLoss_trunk (h : LineBusy p s) (admin : AdminState) : (s.portLoss p admin).trunk = s.trunk := by
  have down : (s.portDown p admin).trunk = s.trunk := (congrArg State.trunk (portDown_eq s p admin)).trans rfl
  have busy : LineBusy p (s.portDown p admin) := by
    refine ⟨?_, by rw [down]; exact h.depth⟩
    rw [portDown_port]
    exact h.seen
  have depth := (targetLost_lineWaits busy p).depth
  have trunk := (targetLost_ripple (s.portDown p admin) p).trunk
  rw [depth, down] at trunk
  rw [portLoss_eq]
  generalize (s.portDown p admin).targetLost p = u at trunk ⊢
  refine ((congrArg State.trunk (abandonTelegram_eq u p .off)).trans trunk).trans ?_
  rw [← h.depth]

end

end Sys2Proof.Machine
end

section
/-! PROOFS. A head that is abandoned (R62, R106, R107): its record closes, and a branch at its abandon limit is lost. -/

namespace Sys2Proof.Machine

/-! ### The line of a port -/

/-- The line of `y` is that of `x`. -/
structure SameLine (x y : PortState) : Prop where
  rxPin : y.rxPin = x.rxPin
  markSpan : y.markSpan = x.markSpan
  charTail : y.charTail = x.charTail
  spaceSpan : y.spaceSpan = x.spaceSpan
  spaceCount : y.spaceCount = x.spaceCount
  monitor : y.monitor = x.monitor
  charReceiver : y.charReceiver = x.charReceiver

theorem SameLine.trans {x y z : PortState} (a : SameLine x y) (b : SameLine y z) : SameLine x z :=
  ⟨b.rxPin.trans a.rxPin, b.markSpan.trans a.markSpan, b.charTail.trans a.charTail, b.spaceSpan.trans a.spaceSpan,
    b.spaceCount.trans a.spaceCount, b.monitor.trans a.monitor, b.charReceiver.trans a.charReceiver⟩

theorem SameLine.of_dropped {x y : PortState} {k : Scheduler} (h : y = { x.dropped with scheduler := k }) : SameLine x y := by
  subst h
  exact ⟨rfl, rfl, rfl, rfl, rfl, rfl, rfl⟩

/-- What a collision does to the line is done when the line is not touched after it. -/
theorem CollisionLine.of_same {p : Port} {c : Instr} {s u t : State} (h : CollisionLine p c s u)
    (same : SameLine (u.port p) (t.port p)) (armed : t.trunk.breakState = u.trunk.breakState) : CollisionLine p c s t := by
  unfold CollisionLine at h ⊢
  rw [same.rxPin, same.markSpan, same.charTail, same.spaceSpan, same.spaceCount, same.monitor, same.charReceiver, armed]
  exact h

/-! ### The head that leaves -/

section
variable {p : Port} {u : State} {e : QueueEntry}

theorem headDropped_port : (u.headDropped p e).port p = (u.port p).dropped := State.setPort_port _ _ _

theorem headDropped_other {q : Port} (away : q ≠ p) : (u.headDropped p e).port q = u.port q := State.setPort_port_other _ _ away

theorem headDropped_scheduler : (u.headDropped p e).scheduler p
    = { u.scheduler p with queue := (u.scheduler p).queue.tail, phase := .empty, attempts := 0, backoffGap := 0 } := by
  rw [State.scheduler_def, headDropped_port]
  rfl

theorem headDropped_unheld (unheld : NoHeadHeld u) : NoHeadHeld (u.headDropped p e) := by
  intro q
  by_cases same : q = p
  · subst same
    rw [headDropped_scheduler]
    exact nofun
  · rw [State.scheduler_def, headDropped_other same]
    exact unheld q

theorem headDropped_busy (busy : LineBusy p u) : LineBusy p (u.headDropped p e) := by
  refine ⟨?_, busy.depth⟩
  rw [headDropped_port]
  exact busy.seen

theorem headDropped_canonical (wf : CellsCanonical u) : CellsCanonical (u.headDropped p e) := by
  unfold CellsCanonical
  change cellsWf (u.pool.dropRef e.desc).cells = true
  rw [Pool.dropRef_cells]
  exact wf

/-- The port of an abandoned head, the abandon counted. -/
def PortState.abandoned (x : PortState) : PortState :=
  { x.dropped with scheduler := { x.dropped.scheduler with abandons := min 15 (x.scheduler.abandons + 1) } }

/-- What every abandon leaves before a reply's leaving, a fault or the next head is acted on. -/
structure AbandonLeft (p : Port) (e : QueueEntry) (u t : State) : Prop where
  port : t.port p = { (u.port p).dropped with scheduler := t.scheduler p }
  attempts : (t.scheduler p).attempts = 0
  abandons : (t.scheduler p).abandons = min 15 ((u.scheduler p).abandons + 1)
  trunk : t.trunk = u.trunk
  routes : t.routes = u.routes
  agent : t.agent = u.agent
  notices : NoticesGrow (u.post .txAbandoned (some p) (some e.line) none) t

theorem headAbandoned_left (busy : LineBusy p u) : AbandonLeft p e u (u.headAbandoned p e) := by
  have waits := requestLost_lineWaits (headDropped_busy (e := e) busy) p e.desc
  have ripple : Ripple (u.headDropped p e) ((u.headDropped p e).requestLost p e.desc) := requestLost_ripple _ p e.desc
  have grows : NoticesGrow (u.post .txAbandoned (some p) (some e.line) none) ((u.headDropped p e).requestLost p e.desc) :=
    requestLost_grows (u.headDropped p e) p e.desc
  have attempts := waits.attempts (by rw [headDropped_scheduler])
  have abandons := waits.abandons
  have port := waits.port
  have depth := waits.depth
  rw [headDropped_scheduler] at abandons
  rw [headDropped_port] at port
  unfold State.headAbandoned
  generalize (u.headDropped p e).requestLost p e.desc = k at *
  have now : (k.onScheduler p fun c => { c with abandons := min 15 (c.abandons + 1) }).port p
      = { k.port p with scheduler := { k.scheduler p with abandons := min 15 ((k.scheduler p).abandons + 1) } } :=
    State.setPort_port _ _ _
  have scheduler := congrArg PortState.scheduler now
  refine ⟨?_, (congrArg Scheduler.attempts scheduler).trans attempts, (congrArg Scheduler.abandons scheduler).trans ?_, ?_,
    ripple.routes, ripple.agent, grows⟩
  · rw [State.scheduler_def, now, port]
  · exact congrArg (fun n => min 15 (n + 1)) abandons
  · have trunk := ripple.trunk
    rw [depth] at trunk
    refine trunk.trans ?_
    change { u.trunk with pendingDepth := none } = u.trunk
    rw [← busy.depth]

theorem headAbandoned_none (none : u.exchanges.sendingRecord p e.desc = none) : u.headAbandoned p e
    = ((u.withPool (u.pool.dropRef e.desc)).setPort p (u.port p).abandoned).withNotices
        (u.notices.post .txAbandoned (some p) (some e.line) Option.none) := by
  unfold State.headAbandoned
  rw [requestLost_none (s := u.headDropped p e) none, State.onScheduler_eq, headDropped_scheduler, headDropped_port]
  unfold State.headDropped
  change (((u.withPool _).setPort p _).setPort p _).withNotices _ = _
  rw [State.setPort_setPort]
  rfl

theorem headAbandoned_plain {r : ExchangeRecord} (sending : u.exchanges.sendingRecord p e.desc = some r)
    (plain : r.standIn = false) (unheld : NoHeadHeld u) (depth : u.trunk.pendingDepth = none) (one : OnePerPair u.exchanges.records) :
    u.headAbandoned p e
      = (((u.withPool (u.pool.dropRef e.desc)).setPort p (u.port p).abandoned).withTable
          { u.exchanges with records := u.exchanges.records.filter fun x => decide (x ≠ r) }).withNotices
          ((u.notices.post .txAbandoned (some p) (some e.line) none).post .exchangeClosed (some p) (some r.line) (some 3)) := by
  obtain ⟨mem, target, -⟩ := ExchangeMonitor.sendingRecord_some sending
  have closed : (u.headDropped p e).closeExchange r .unreachable
      = ((u.headDropped p e).withNotices ((u.headDropped p e).notices.closing r .unreachable)).withTable
          ((u.headDropped p e).exchanges.closed r .unreachable) :=
    closeExchange_plain plain (headDropped_unheld unheld) depth
  have table : (u.headDropped p e).exchanges.closed r .unreachable = _ := closed_unreachable (m := u.exchanges) one mem
  have notices : (u.headDropped p e).notices.closing r .unreachable
      = (u.notices.post .txAbandoned (some p) (some e.line) none).post .exchangeClosed (some p) (some r.line) (some 3) := by
    rw [← target]
    rfl
  unfold State.headAbandoned
  rw [requestLost_some (s := u.headDropped p e) sending, closed, table, notices, State.onScheduler_eq]
  change (((u.headDropped p e).setPort p { (u.headDropped p e).port p with scheduler :=
    { (u.headDropped p e).scheduler p with abandons := min 15 (((u.headDropped p e).scheduler p).abandons + 1) } }).withNotices
      _).withTable _ = _
  rw [headDropped_scheduler, headDropped_port]
  unfold State.headDropped
  change (((((u.withPool _).setPort p _).setPort p _).withTable _).withNotices _) = _
  rw [State.setPort_setPort]
  rfl

/-- The record of the abandoned head closes with a stand-in reply that is stored and taken. -/
theorem headAbandoned_taken {r : ExchangeRecord} {d : DescNo} {k : CellNo} (sending : u.exchanges.sendingRecord p e.desc = some r)
    (standIn : r.standIn = true) (away : r.origin ≠ p) (unheld : NoHeadHeld u) (depth : u.trunk.pendingDepth = none)
    (one : OnePerPair u.exchanges.records) (taken : StandInTaken (u.headDropped p e) r .unreachable d k) :
    (∃ v, StandInStored (u.headDropped p e) v r .unreachable d k
        ∧ (u.headAbandoned p e).port r.origin = v.port r.origin ∧ (u.headAbandoned p e).exchanges = v.exchanges
        ∧ (u.headAbandoned p e).pool = v.pool)
      ∧ (u.headAbandoned p e).port p = (u.port p).abandoned
      ∧ (u.headAbandoned p e).exchanges = { u.exchanges with records := u.exchanges.records.filter fun x => decide (x ≠ r) }
      ∧ (u.headAbandoned p e).notices
          = (u.notices.post .txAbandoned (some p) (some e.line) none).post .exchangeClosed (some p) (some r.line) (some 3) := by
  obtain ⟨mem, target, -⟩ := ExchangeMonitor.sendingRecord_some sending
  obtain ⟨stored, notices, table⟩ := closeExchange_taken standIn taken (headDropped_unheld unheld) depth
  have closing : (u.headDropped p e).notices.closing r .unreachable
      = (u.notices.post .txAbandoned (some p) (some e.line) none).post .exchangeClosed (some p) (some r.line) (some 3) := by
    rw [← target]
    rfl
  unfold State.headAbandoned
  rw [requestLost_some (s := u.headDropped p e) sending]
  generalize (u.headDropped p e).closeExchange r .unreachable = v at *
  obtain ⟨n, m, y, shape⟩ := stored.state
  have port : v.port p = (u.port p).dropped := by
    rw [shape]
    exact (State.setPort_port_other _ _ (Ne.symm away)).trans headDropped_port
  refine ⟨⟨v, stored, State.onScheduler_port_other v _ away, rfl, rfl⟩, ?_, table.trans (closed_unreachable (m := u.exchanges) one mem),
    notices.trans closing⟩
  rw [State.onScheduler_eq, State.setPort_port, State.scheduler_def, port]
  rfl

end

end Sys2Proof.Machine
end

section
/-! PROOFS. Collisions past the retry limit, settled: the next head, or the fault of a branch at its abandon limit. -/

namespace Sys2Proof.Machine

/-! ### From the state before the collision to the one that has seen it -/

namespace CollisionSeen
variable {p : Port} {c : Instr} {s u : State}

theorem blocks (h : CollisionSeen p c s u) : u.pool = s.pool ∧ u.exchanges = s.exchanges ∧ u.notices = s.notices
    ∧ u.routes = s.routes ∧ u.agent = s.agent ∧ u.trunk = { s.trunk with breakState := u.trunk.breakState } := by
  obtain ⟨l, b, rfl⟩ := h.state
  exact ⟨rfl, rfl, rfl, rfl, rfl, rfl⟩

theorem scheduler (h : CollisionSeen p c s u) (q : Port) : u.scheduler q = s.scheduler q := by
  by_cases same : q = p
  · subst same
    rw [State.scheduler_def, h.port]
    rfl
  · exact congrArg PortState.scheduler (h.others q same)

theorem unheld (h : CollisionSeen p c s u) (unheld : NoHeadHeld s) : NoHeadHeld u := fun q => by
  rw [h.scheduler]
  exact unheld q

theorem busy (h : CollisionSeen p c s u) (depth : s.trunk.pendingDepth = none) : LineBusy p u := by
  refine ⟨h.line.2.1, ?_⟩
  rw [h.blocks.2.2.2.2.2]
  exact depth

/-- The state that has seen the collision with one port, the pool, the records and the notices changed. -/
theorem changed (h : CollisionSeen p c s u) (q : Pool) (m : ExchangeMonitor) (n : NoticeQueue) (y : PortState) :
    (((u.withPool q).setPort p y).withTable m).withNotices n
      = ((((s.setPort p y).withTrunk u.trunk).withPool q).withTable m).withNotices n := by
  obtain ⟨l, b, rfl⟩ := h.state
  change ((((State.setPort (s.setPort p _) p y).withTrunk _).withPool q).withTable m).withNotices n = _
  rw [State.setPort_setPort]

end CollisionSeen

/-! ### What every abandon leaves -/

/-- What an abandon leaves whether its branch is lost or not. -/
structure AbandonDone (p : Port) (c : Instr) (s : State) (e : QueueEntry) (t : State) : Prop where
  line : CollisionLine p c s t
  abandons : (t.scheduler p).abandons = min 15 ((s.scheduler p).abandons + 1)
  attempts : (t.scheduler p).attempts = 0
  transmitter : (t.port p).transmitter = (s.port p).transmitter.cutShort
  counters : (t.port p).counters = { (s.port p).counters with collisions := min 65535 ((s.port p).counters.collisions + 1) }
  routes : t.routes = s.routes
  agent : t.agent = s.agent
  trunk : t.trunk = { s.trunk with breakState := t.trunk.breakState }
  notices : NoticesGrow (s.post .txAbandoned (some p) (some e.line) none) t

section
variable {p : Port} {c : Instr} {s u l : State} {e : QueueEntry}

theorem AbandonLeft.busy (h : AbandonLeft p e u l) (busy : LineBusy p u) : LineBusy p l := by
  refine ⟨?_, ?_⟩
  · rw [h.port]
    exact busy.seen
  · rw [h.trunk]
    exact busy.depth

theorem AbandonLeft.same (h : AbandonLeft p e u l) : SameLine (u.port p) (l.port p) := .of_dropped h.port

/-- The port and the blocks that the abandon leaves, read from the state before the collision. -/
theorem AbandonLeft.done (h : AbandonLeft p e u l) (seen : CollisionSeen p c s u) : AbandonDone p c s e l := by
  have port := h.port
  rw [seen.port] at port
  obtain ⟨-, -, notices, routes, agent, trunk⟩ := seen.blocks
  have abandons := h.abandons
  rw [seen.scheduler] at abandons
  have grows := h.notices
  unfold NoticesGrow at grows
  rw [State.post_eq, notices] at grows
  refine ⟨seen.line.of_same h.same (congrArg TrunkState.breakState h.trunk), abandons, h.attempts,
    (congrArg PortState.transmitter port).trans rfl, (congrArg PortState.counters port).trans rfl, h.routes.trans routes,
    h.agent.trans agent, ?_, grows⟩
  rw [h.trunk]
  exact trunk

/-! ### The next head -/

theorem AbandonDone.onward (h : AbandonDone p c s e l) (busy : LineBusy p l) : AbandonDone p c s e (l.decideHead p) := by
  have waits := decideHead_busy (PortState.lineFree_seen busy.seen)
  have attempt := decideHead_attemptOnly l p
  have port := congrArg (fun t => State.port t p) waits.port
  rw [State.setPort_port] at port
  obtain ⟨trunk, routes, notices, agent, -⟩ := attempt.blocks
  generalize l.decideHead p = t at *
  have same : SameLine (l.port p) (t.port p) := by
    rw [port]
    exact ⟨rfl, rfl, rfl, rfl, rfl, rfl, rfl⟩
  refine ⟨h.line.of_same same (congrArg _ trunk), waits.abandons.trans h.abandons, waits.attempts h.attempts, ?_, ?_,
    routes.trans h.routes, agent.trans h.agent, ?_, h.notices.trans (.of_eq notices)⟩
  · rw [port]
    exact h.transmitter
  · rw [port]
    exact h.counters
  · rw [trunk]
    exact h.trunk

/-! ### The fault of a branch -/

/-- The state in which an ACTIVE branch is lost to a fault (R157). -/
def State.faultedAt (s : State) (p : Port) (why : FaultReason) : State :=
  (s.setPort p { s.port p with lastFault := some why }).withNotices (s.notices.post .portFaulted (some p) none (some why.code))

theorem faultPort_active {why : FaultReason} (branch : p.isBranch = true) (active : (s.port p).admin = .active) :
    s.faultPort p why = (s.faultedAt p why).portLoss p .faulted := by
  unfold State.faultPort
  rw [if_pos ⟨branch, active⟩]
  rfl

theorem faultedAt_start (s : State) (p : Port) (why : FaultReason) : LossStart p s (s.faultedAt p why) := by
  have port : (s.faultedAt p why).port p = { s.port p with lastFault := some why } := State.setPort_port _ _ _
  exact ⟨fun q away => State.setPort_port_other _ _ away, (congrArg PortState.receiver port).trans rfl,
    (congrArg PortState.scheduler port).trans rfl, rfl, rfl, rfl⟩

theorem faultedAt_port {why : FaultReason} : (s.faultedAt p why).port p = { s.port p with lastFault := some why } :=
  State.setPort_port _ _ _

theorem Transmitter.cutShort_cutShort (x : Transmitter) : x.cutShort.cutShort = x.cutShort := by
  cases x <;> rfl

/-- The port of a branch lost to a fault while it transmits. -/
theorem faulted_port {why : FaultReason} {n : Nat} (branch : p ≠ .trunk) (receiver : (s.port p).receiver = .echo n) :
    ((s.faultedAt p why).portLoss p .faulted).port p =
      { (s.port p).downed .faulted with receiver := .off, lastFault := some why } := by
  rw [portLoss_port (s.faultedAt p why) branch (admin := .faulted) nofun, faultedAt_port]
  unfold PortState.abandonedCounters
  dsimp only
  rw [receiver]
  rfl

theorem AbandonDone.faulted (h : AbandonDone p c s e l) (busy : LineBusy p l) (branch : p ≠ .trunk) {n : Nat}
    (receiver : (l.port p).receiver = .echo n) : AbandonDone p c s e ((l.faultedAt p .contention).portLoss p .faulted) := by
  have port := faulted_port (why := .contention) branch receiver
  have busy' : LineBusy p (l.faultedAt p .contention) := by
    refine ⟨?_, busy.depth⟩
    rw [faultedAt_port]
    exact busy.seen
  have grows : NoticesGrow l ((l.faultedAt p .contention).portLoss p .faulted) :=
    (post_grows l .portFaulted (some p) none (some FaultReason.contention.code)).trans (portLoss_grows (l.faultedAt p .contention) p .faulted)
  have kept := portLoss_kept (l.faultedAt p .contention) p .faulted
  have trunk : ((l.faultedAt p .contention).portLoss p .faulted).trunk = l.trunk := portLoss_trunk busy' .faulted
  have routes := kept.routes
  have agent := kept.agent
  generalize (l.faultedAt p .contention).portLoss p .faulted = t at *
  have same : SameLine (l.port p) (t.port p) := by
    rw [port]
    exact ⟨rfl, rfl, rfl, rfl, rfl, rfl, rfl⟩
  have scheduler := congrArg PortState.scheduler port
  refine ⟨h.line.of_same same (congrArg _ trunk), (congrArg Scheduler.abandons scheduler).trans h.abandons,
    (congrArg Scheduler.attempts scheduler).trans rfl, ?_, ?_, routes.trans h.routes, agent.trans h.agent, ?_, h.notices.trans grows⟩
  · rw [port]
    change (l.port p).transmitter.cutShort = _
    rw [h.transmitter, Transmitter.cutShort_cutShort]
  · rw [port]
    exact h.counters
  · rw [trunk]
    exact h.trunk

end

end Sys2Proof.Machine
end

section
/-! PROOFS. The obligation about a collision past the retry limit, from the abandon's two ends. -/

namespace Sys2Proof.Machine

/-! ### Losses without stand-in replies -/

section
variable {p : Port} {s t : State} {q : NoticeQueue}

theorem RecordsLost.of_table {w : State} {why : ExchangeRecord → Option Word16} (h : RecordsLost p s t q why)
    (table : w.exchanges = s.exchanges) : RecordsLost p w t q why := by
  unfold RecordsLost at h ⊢
  rw [table]
  exact h

/-- The reasons of the records that are lost are all that is read of them. -/
theorem RecordsLost.congr {why why' : ExchangeRecord → Option Word16} (h : RecordsLost p s t q why)
    (same : ∀ r ∈ s.exchanges.records, r.target = p → r.isOpen = true → why r = why' r) : RecordsLost p s t q why' := by
  obtain ⟨lost, perm, sorted, notices, table⟩ := h
  refine ⟨lost, perm, sorted, notices.trans (List.foldl_ext _ _ _ fun n r mem => ?_), table⟩
  obtain ⟨stood, doomed⟩ := List.mem_filter.mp (perm.mem_iff.mp mem)
  rw [Bool.and_eq_true, decide_eq_true_eq] at doomed
  dsimp only
  rw [same r stood doomed.1 doomed.2]

/-- With no open record on the port nothing closes, and its records with late hold are freed. -/
theorem RecordsLost.silent {why : ExchangeRecord → Option Word16} (h : RecordsLost p s t q why)
    (closed : ∀ r ∈ s.exchanges.records, r.target = p → r.isOpen = false) :
    t.notices = q ∧ t.exchanges = { s.exchanges with
      records := s.exchanges.records.filter fun r => !(decide (r.target = p) && r.lateHold) } := by
  obtain ⟨lost, perm, -, notices, table⟩ := h
  have none : lost = [] := by
    rw [List.filter_eq_nil_iff.mpr fun r mem doomed => ?_] at perm
    · exact perm.eq_nil
    · rw [Bool.and_eq_true, decide_eq_true_eq] at doomed
      rw [closed r mem doomed.1] at doomed
      cases doomed.2
  subst none
  refine ⟨notices, table.trans (congrArg (ExchangeMonitor.mk · _ _) (List.filter_congr fun r mem => ?_))⟩
  by_cases target : r.target = p
  · rw [closed r mem target, Bool.false_or]
  · rw [decide_eq_false target, Bool.false_and, Bool.false_and]

/-- A branch that transmits, lost to contention with no stand-in reply due. -/
theorem faulted_losing {n : Nat} (receiver : (s.port p).receiver = .echo n) (sound : ExchangesSound s)
    (others : ∀ k, k ≠ p → (s.scheduler k).phase ≠ .headHeld) (depth : s.trunk.pendingDepth = none)
    (plain : ∀ r ∈ s.exchanges.records, r.target = p → r.isOpen = true → r.standIn = false) :
    RecordsLost p s ((s.faultedAt p .contention).portLoss p .faulted)
        ((s.notices.post .portFaulted (some p) none (some 2)).purgedOf p (s.scheduler p).queue.length) (fun _ => none)
      ∧ ((s.faultedAt p .contention).portLoss p .faulted).pool = s.purgedPool p
      ∧ OtherPortsKept p s ((s.faultedAt p .contention).portLoss p .faulted) := by
  have start := faultedAt_start s p .contention
  obtain ⟨records, pool, ports⟩ := portLoss_losing (s := s.faultedAt p .contention) (p := p) (admin := .faulted) sound
    (fun k away => by rw [State.scheduler_def, start.port k away]; exact others k away) depth
    (fun r mem target opened => .inl (plain r mem target opened))
  rw [start.scheduler] at records
  refine ⟨(start.recordsLost records).congr fun r mem target opened => ?_, ?_, fun k away => (ports k away).trans (start.port k away)⟩
  · rw [plain r mem target opened]
    rfl
  · rw [pool, start.lostPool]
    unfold State.lostPool
    rw [receiver]

end

theorem ExchangeRecord.isOpen_of_sending (r : ExchangeRecord) (h : r.state = .sending) : r.isOpen = true := by
  unfold ExchangeRecord.isOpen
  rw [h]
  rfl

theorem exchangesSound_filter {s t : State} {f : ExchangeRecord → Bool} (sound : ExchangesSound s)
    (table : t.exchanges.records = s.exchanges.records.filter f) : ExchangesSound t := by
  unfold ExchangesSound
  rw [table]
  exact ⟨(List.length_filter_le _ _).trans sound.1, sound.2.filter _⟩

/-! ### The next head -/

section
variable {p : Port} {c : Instr} {s u : State} {e : QueueEntry} {rest : List QueueEntry}

theorem abandoned_queue (seen : CollisionSeen p c s u) (queue : (s.scheduler p).queue = e :: rest) :
    (u.port p).abandoned.scheduler.queue = rest := by
  change (u.scheduler p).queue.tail = rest
  rw [seen.scheduler, queue]
  rfl

/-- The port that the next decision leaves: what the collision did to it, and its scheduler. -/
theorem onward_port {l : State} (left : AbandonLeft p e u l) (busy : LineBusy p l) (seen : CollisionSeen p c s u) :
    (l.decideHead p).port p = { (s.port p).withLine ((l.decideHead p).port p) with
      transmitter := ((l.decideHead p).port p).transmitter, counters := ((l.decideHead p).port p).counters
      scheduler := (l.decideHead p).scheduler p } := by
  have port := congrArg (fun t => State.port t p) (decideHead_busy (PortState.lineFree_seen busy.seen)).port
  rw [State.setPort_port, left.port, seen.port] at port
  generalize l.decideHead p = t at port ⊢
  rw [port]
  rfl

/-- The whole state after the next decision, where the abandon itself changed one port, the pool, the records and the
notices. -/
theorem onward_state {l : State} {q : Pool} {m : ExchangeMonitor} {n : NoticeQueue} {y : PortState}
    (left : AbandonLeft p e u l) (busy : LineBusy p l) (seen : CollisionSeen p c s u)
    (state : l = (((u.withPool q).setPort p y).withTable m).withNotices n) :
    l.decideHead p = ((((s.setPort p { (s.port p).withLine ((l.decideHead p).port p) with
      transmitter := ((l.decideHead p).port p).transmitter, counters := ((l.decideHead p).port p).counters
      scheduler := (l.decideHead p).scheduler p }).withTrunk (l.decideHead p).trunk).withPool q).withTable m).withNotices n := by
  have waits := decideHead_busy (PortState.lineFree_seen busy.seen)
  have port := congrArg (fun t => State.port t p) waits.port
  rw [State.setPort_port] at port
  have trunk : (l.decideHead p).trunk = u.trunk := (decideHead_attemptOnly l p).blocks.1.trans left.trunk
  rw [← onward_port left busy seen, trunk]
  refine waits.port.trans ?_
  rw [← port]
  generalize (l.decideHead p).port p = z
  refine Eq.trans ?_ (seen.changed q m n z)
  subst state
  change ((((u.withPool q).setPort p y).setPort p z).withTable m).withNotices n = _
  rw [State.setPort_setPort]

/-- The branch at its abandon limit, none of its open records with stand-in. -/
theorem abandoned_losing {l : State} {m : ExchangeMonitor} {n : NoticeQueue} {k : Nat} (seen : CollisionSeen p c s u)
    (queue : (s.scheduler p).queue = e :: rest) (receiver : (s.port p).receiver = .echo k) (unheld : NoHeadHeld s)
    (depth : s.trunk.pendingDepth = none)
    (state : l = (((u.withPool (u.pool.dropRef e.desc)).setPort p (u.port p).abandoned).withTable m).withNotices n)
    (sound : ExchangesSound (s.withTable m)) (plain : ∀ r ∈ m.records, r.target = p → r.isOpen = true → r.standIn = false) :
    OtherPortsKept p s ((l.faultedAt p .contention).portLoss p .faulted)
      ∧ ((l.faultedAt p .contention).portLoss p .faulted).pool = (e :: rest).foldl (fun q x => q.dropRef x.desc) s.pool
      ∧ RecordsLost p (s.withTable m) ((l.faultedAt p .contention).portLoss p .faulted)
          ((n.post .portFaulted (some p) none (some 2)).purgedOf p rest.length) (fun _ => none) := by
  have port : l.port p = (u.port p).abandoned := by
    rw [state]
    exact State.setPort_port _ _ _
  have others : ∀ q, q ≠ p → l.port q = s.port q := fun q away => by
    rw [state]
    exact (State.setPort_port_other _ _ away).trans (seen.others q away)
  have scheduler : (l.scheduler p).queue = rest :=
    (congrArg (fun x => x.scheduler.queue) port).trans (abandoned_queue seen queue)
  have echo : (l.port p).receiver = .echo k := by
    rw [port, seen.port]
    exact receiver
  obtain ⟨records, pool, kept⟩ := faulted_losing (s := l) echo (by rw [state]; exact sound)
    (fun q away => by rw [State.scheduler_def, others q away]; exact unheld q)
    (by rw [state]; exact (seen.busy depth).depth) (by rw [state]; exact plain)
  rw [scheduler] at records
  refine ⟨fun q away => (kept q away).trans (others q away), pool.trans ?_, ?_⟩
  · unfold State.purgedPool
    rw [scheduler, state, ← seen.blocks.1]
    rfl
  · rw [show l.notices = n by rw [state]] at records
    exact records.of_table (by rw [state])

end

/-! ### The two ends of the abandon -/

/-- What the obligation supposes of the head on the line, the collision seen. -/
structure HeadCollided (p : Port) (c : Instr) (s u : State) (e : QueueEntry) (rest : List QueueEntry) (pos : Nat) : Prop where
  seen : CollisionSeen p c s u
  queue : (s.scheduler p).queue = e :: rest
  receiver : (s.port p).receiver = .echo pos
  sound : ExchangesSound s
  unheld : NoHeadHeld s
  depth : s.trunk.pendingDepth = none

namespace HeadCollided
variable {p : Port} {c : Instr} {s u : State} {e : QueueEntry} {rest : List QueueEntry} {pos : Nat}

theorem left (h : HeadCollided p c s u e rest pos) : AbandonLeft p e u (u.headAbandoned p e) :=
  headAbandoned_left (h.seen.busy h.depth)

theorem busy (h : HeadCollided p c s u e rest pos) : LineBusy p (u.headAbandoned p e) := h.left.busy (h.seen.busy h.depth)

/-- The state where no record of the head is SENDING. -/
theorem state_none (h : HeadCollided p c s u e rest pos) (none : s.exchanges.sendingRecord p e.desc = none) :
    u.headAbandoned p e = (((u.withPool (u.pool.dropRef e.desc)).setPort p (u.port p).abandoned).withTable s.exchanges).withNotices
      (s.notices.post .txAbandoned (some p) (some e.line) Option.none) := by
  obtain ⟨-, table, notices, -⟩ := h.seen.blocks
  have state := headAbandoned_none (u := u) (p := p) (e := e) (by rw [table]; exact none)
  rw [notices] at state
  rw [← table]
  exact state

/-- The state where the record of the head has no stand-in. -/
theorem state_plain (h : HeadCollided p c s u e rest pos) {r : ExchangeRecord}
    (sending : s.exchanges.sendingRecord p e.desc = some r) (plain : r.standIn = false) :
    u.headAbandoned p e = (((u.withPool (u.pool.dropRef e.desc)).setPort p (u.port p).abandoned).withTable
        { s.exchanges with records := s.exchanges.records.filter fun x => decide (x ≠ r) }).withNotices
      ((s.notices.post .txAbandoned (some p) (some e.line) none).post .exchangeClosed (some p) (some r.line) (some 3)) := by
  obtain ⟨-, table, notices, -⟩ := h.seen.blocks
  have state := headAbandoned_plain (u := u) (p := p) (e := e) (by rw [table]; exact sending) plain (h.seen.unheld h.unheld)
    (h.seen.busy h.depth).depth (by rw [table]; exact h.sound.2)
  rw [notices, table] at state
  exact state

/-- The loss of the branch, as the obligation states it of the state `w` in which the head's record has closed. -/
theorem losing (h : HeadCollided p c s u e rest pos) {w : State}
    (plain : ∀ x ∈ s.exchanges.records, x.target = p → x.isOpen = true → x.standIn = false)
    (start : s.exchanges.sendingRecord p e.desc = none
        ∧ w = { s with notices := s.notices.post .txAbandoned (some p) (some e.line) none }
      ∨ ∃ r, s.exchanges.sendingRecord p e.desc = some r
        ∧ w = { s with
            exchanges := { s.exchanges with records := s.exchanges.records.filter fun x => decide (x ≠ r) }
            notices := (s.notices.post .txAbandoned (some p) (some e.line) none).post .exchangeClosed
              (some p) (some r.line) (some 3) }) :
    OtherPortsKept p s (((u.headAbandoned p e).faultedAt p .contention).portLoss p .faulted)
      ∧ (((u.headAbandoned p e).faultedAt p .contention).portLoss p .faulted).pool
          = (e :: rest).foldl (fun q x => q.dropRef x.desc) s.pool
      ∧ RecordsLost p w (((u.headAbandoned p e).faultedAt p .contention).portLoss p .faulted)
          ((w.notices.post .portFaulted (some p) none (some 2)).purgedOf p rest.length) fun _ => none := by
  obtain ⟨none, rfl⟩ | ⟨r, sending, rfl⟩ := start
  · obtain ⟨kept, freed, records⟩ := abandoned_losing h.seen h.queue h.receiver h.unheld h.depth (h.state_none none) h.sound plain
    exact ⟨kept, freed, records⟩
  · obtain ⟨mem, target, sends⟩ := ExchangeMonitor.sendingRecord_some sending
    obtain ⟨kept, freed, records⟩ := abandoned_losing h.seen h.queue h.receiver h.unheld h.depth
      (h.state_plain sending (plain r mem target (r.isOpen_of_sending sends)))
      (exchangesSound_filter h.sound rfl) (fun x stood => plain x (List.mem_filter.mp stood).1)
    exact ⟨kept, freed, records⟩

/-- The loss of the branch with no open record on it. -/
theorem losing_silent (h : HeadCollided p c s u e rest pos)
    (closed : ∀ x ∈ s.exchanges.records, x.target = p → x.isOpen = false) :
    OtherPortsKept p s (((u.headAbandoned p e).faultedAt p .contention).portLoss p .faulted)
      ∧ (((u.headAbandoned p e).faultedAt p .contention).portLoss p .faulted).pool
          = (e :: rest).foldl (fun q x => q.dropRef x.desc) s.pool
      ∧ (((u.headAbandoned p e).faultedAt p .contention).portLoss p .faulted).exchanges = { s.exchanges with
          records := s.exchanges.records.filter fun x => !(decide (x.target = p) && x.lateHold) }
      ∧ (((u.headAbandoned p e).faultedAt p .contention).portLoss p .faulted).notices =
          (let faulted := (s.notices.post .txAbandoned (some p) (some e.line) none).post .portFaulted (some p) none (some 2)
           if rest = [] then faulted
           else faulted.post .purged (some p) none (some (BitVec.ofNat 16 rest.length))) := by
  have unopened : s.exchanges.sendingRecord p e.desc = none := Option.eq_none_iff_forall_ne_some.mpr fun r sending => by
    obtain ⟨mem, target, sends⟩ := ExchangeMonitor.sendingRecord_some sending
    have opened := r.isOpen_of_sending sends
    rw [closed r mem target] at opened
    cases opened
  obtain ⟨kept, freed, records⟩ := h.losing (w := { s with notices := s.notices.post .txAbandoned (some p) (some e.line) none })
    (fun x mem target opened => by rw [closed x mem target] at opened; cases opened) (.inl ⟨unopened, rfl⟩)
  obtain ⟨posted, late⟩ := records.silent closed
  refine ⟨kept, freed, late, posted.trans ?_⟩
  unfold NoticeQueue.purgedOf
  exact if_congr List.length_eq_zero_iff rfl rfl

theorem onward_queue (h : HeadCollided p c s u e rest pos) (mine : (u.headAbandoned p e).port p = (u.port p).abandoned) :
    ((u.headAbandoned p e).scheduler p).queue = rest :=
  (congrArg (fun x => x.scheduler.queue) mine).trans (abandoned_queue h.seen h.queue)

/-- The next head is decided, a stand-in reply of the head's record queued toward its origin. -/
theorem onward_taken (h : HeadCollided p c s u e rest pos) {r : ExchangeRecord} {d : DescNo} {k : CellNo}
    (sending : s.exchanges.sendingRecord p e.desc = some r) (standIn : r.standIn = true) (away : r.origin ≠ p)
    (wf : CellsCanonical s) (settings : s.agent.settings.inRanges = true)
    (taken : StandInTaken { s with pool := s.pool.dropRef e.desc } r .unreachable d k) :
    let t := (u.headAbandoned p e).decideHead p
    StandInQueued s t r .unreachable d k
      ∧ (∀ x, x ≠ d → t.pool.descriptor x = (s.pool.dropRef e.desc).descriptor x)
      ∧ t.exchanges = { s.exchanges with records := s.exchanges.records.filter fun x => decide (x ≠ r) }
      ∧ t.notices = (s.notices.post .txAbandoned (some p) (some e.line) none).post .exchangeClosed (some p) (some r.line) (some 3)
      ∧ (t.scheduler p).queue = rest := by
  obtain ⟨pool, table, notices, -, agent, -⟩ := h.seen.blocks
  have origin : (u.headDropped p e).port r.origin = s.port r.origin := (headDropped_other away).trans (h.seen.others _ away)
  have dropped : (u.headDropped p e).pool = s.pool.dropRef e.desc := by rw [← pool]; rfl
  have setting : (u.headDropped p e).agent.settings = s.agent.settings := by rw [← agent]; rfl
  have offered : StandInTaken (u.headDropped p e) r .unreachable d k := by
    refine ⟨by rw [dropped]; exact taken.descriptor, by rw [dropped]; exact taken.cell, ?_⟩
    rw [setting]
    exact (filter_congr (s := { s with pool := s.pool.dropRef e.desc }) (congrArg _ origin) (congrArg _ origin)
      (congrArg PortState.scheduler origin) _ _).trans taken.offered
  obtain ⟨⟨v, stored, same, tables, pools⟩, mine, records, posts⟩ :=
    headAbandoned_taken (u := u) (by rw [table]; exact sending) standIn away (h.seen.unheld h.unheld) (h.seen.busy h.depth).depth
      (by rw [table]; exact h.sound.2) offered
  obtain ⟨n, m, y, shape⟩ := stored.state
  have canonical : CellsCanonical (u.headDropped p e) := headDropped_canonical (by unfold CellsCanonical; rw [pool]; exact wf)
  have waits := decideHead_busy (PortState.lineFree_seen h.busy.seen)
  have attempt := decideHead_attemptOnly (u.headAbandoned p e) p
  have exchanges : ((u.headAbandoned p e).decideHead p).exchanges = (u.headAbandoned p e).exchanges :=
    (congrArg State.exchanges waits.port).trans rfl
  have pool' : ((u.headAbandoned p e).decideHead p).pool = v.pool := attempt.pool.trans pools
  refine ⟨stored.since origin setting ((attempt.others _ away).trans same) (exchanges.trans tables) (by rw [pool'])
    (by rw [pool']) canonical settings, fun x different => ?_, ?_, ?_, waits.queue.trans (h.onward_queue mine)⟩
  · rw [pool', shape, ← dropped]
    exact Pool.heldReply_other different
  · rw [exchanges, records, table]
  · exact attempt.blocks.2.2.1.trans (posts.trans (by rw [notices]))

/-- Only a branch at its abandon limit is faulted. -/
theorem limit_iff (h : HeadCollided p c s u e rest pos) :
    p.isBranch ∧ ((u.headAbandoned p e).port p).format.abandonLimit ≤ ((u.headAbandoned p e).scheduler p).abandons
      ↔ p ≠ .trunk ∧ (s.port p).format.abandonLimit ≤ min 15 ((s.scheduler p).abandons + 1) := by
  have format : ((u.headAbandoned p e).port p).format = (s.port p).format := by
    rw [h.left.port, h.seen.port]
    rfl
  rw [isBranch_iff, format, (h.left.done h.seen).abandons]

end HeadCollided

/-- A collision past the retry limit whose head's leaving nothing waits for ends in the abandon. -/
theorem collide_ended {p : Port} {c : Instr} {s u : State} {e : QueueEntry} (seen : CollisionSeen p c s u)
    (left : AbandonLeft p e u (u.headAbandoned p e)) (bounded : (s.port p).counters.collisions ≤ 65535)
    (past : (s.port p).format.retryLimit < (s.scheduler p).attempts + 1)
    (reply : e.desc = 0 → s.trunk.pendingFormat = none ∧ s.agent.restartPending = none) :
    u.collide p e = (u.headAbandoned p e).abandonEnd p := by
  obtain ⟨-, -, -, -, agent, trunk⟩ := seen.blocks
  rw [collide_abandons]
  · split
    · next zero =>
      obtain ⟨format, restart⟩ := reply zero
      rw [replyLeft_idle]
      · rw [left.trunk, trunk]
        exact format
      · rw [left.agent, agent]
        exact restart
    · rfl
  · rw [seen.port]
    exact bounded
  · rw [seen.port, seen.scheduler]
    exact past

/-- Settles O18: the head leaves and its record closes, then the branch is lost or the next head is decided. -/
theorem retryLimitAbandonsHead : Obligations.RetryLimitAbandonsHead := by
  intro p s e rest pos c phase queue receiver inside collision past reply active bounded sound unheld depth
  obtain ⟨u, run, seen⟩ := collision_seen phase queue receiver inside collision
  have h : HeadCollided p c s u e rest pos := ⟨seen, queue, receiver, sound, unheld, depth⟩
  have done := h.left.done seen
  have port : (u.headAbandoned p e).port p
      = { ((s.port p).withLine (u.port p)).dropped with scheduler := (u.headAbandoned p e).scheduler p } := by
    rw [← seen.port]
    exact h.left.port
  rw [collide_ended seen h.left bounded past reply] at run
  by_cases reached : p ≠ .trunk ∧ (s.port p).format.abandonLimit ≤ min 15 ((s.scheduler p).abandons + 1)
  · have fault : (u.headAbandoned p e).abandonEnd p = ((u.headAbandoned p e).faultedAt p .contention).portLoss p .faulted :=
      (if_pos (h.limit_iff.mpr reached)).trans (faultPort_active (h.limit_iff.mpr reached).1 (by rw [port]; exact active))
    have echo : ((u.headAbandoned p e).port p).receiver = .echo pos := by
      rw [port]
      exact receiver
    have all := done.faulted h.busy reached.1 echo
    have lost := faulted_port (why := .contention) reached.1 echo
    have scheduler := congrArg PortState.scheduler lost
    rw [fault] at run
    exact ⟨_, run, all.line, all.abandons, all.attempts, all.transmitter, all.counters, all.routes, all.agent, all.trunk,
      fun room => post_stays (s := s) all.notices room,
      fun below => below.elim (absurd · reached.1) fun below => absurd reached.2 (Nat.not_le.mpr below),
      fun _ _ => ⟨congrArg Scheduler.queue scheduler, congrArg Scheduler.phase scheduler, congrArg PortState.admin lost,
        congrArg PortState.lastFault lost, congrArg PortState.receiver lost,
        portLoss_records ((u.headAbandoned p e).faultedAt p .contention) reached.1 nofun, h.losing_silent, fun _ => h.losing⟩⟩
  · have next : (u.headAbandoned p e).abandonEnd p = (u.headAbandoned p e).decideHead p := if_neg (mt h.limit_iff.mp reached)
    have all := done.onward h.busy
    have waits := decideHead_busy (PortState.lineFree_seen h.busy.seen)
    have now := congrArg (fun t => State.port t p) waits.port
    rw [State.setPort_port] at now
    rw [next] at run
    refine ⟨_, run, all.line, all.abandons, all.attempts, all.transmitter, all.counters, all.routes, all.agent, all.trunk,
      fun room => post_stays (s := s) all.notices room, fun _ => ⟨?_, fun missing => ?_, fun none => ?_, fun r sending plain => ?_,
        fun r d k sending standIn away wf settings _ taken => h.onward_taken sending standIn away wf settings taken⟩,
      fun branch reach => absurd ⟨branch, reach⟩ reached⟩
    · rw [now, port]
      exact active
    · rw [now, port]
      exact seen.limit missing
    · have state := h.state_none none
      have mine := h.onward_queue (by rw [state]; exact State.setPort_port _ _ _)
      have shape := onward_state h.left h.busy seen state
      rw [seen.blocks.1] at shape
      exact ⟨shape, waits.queue.trans mine, fun empty => waits.empty (mine.trans empty), fun more => waits.waits (mine ▸ more)⟩
    · have state := h.state_plain sending plain
      have shape := onward_state h.left h.busy seen state
      rw [seen.blocks.1] at shape
      exact ⟨shape, waits.queue.trans (h.onward_queue (by rw [state]; exact State.setPort_port _ _ _))⟩

end Sys2Proof.Machine
end

section
/-! PROOFS. What deciding completions and a warm restart leave of the notices held and of every line (R115, R166, R190). -/

namespace Sys2Proof.Machine

/-! ### Notices held and lines -/

/-- The notices held stay, and the line of every port is as it was. -/
structure LinesKept (s t : State) : Prop where
  notices : NoticesGrow s t
  lines : ∀ p, SameLine (s.port p) (t.port p)

theorem SameLine.refl (x : PortState) : SameLine x x := ⟨rfl, rfl, rfl, rfl, rfl, rfl, rfl⟩

namespace LinesKept
variable {s t u : State}

theorem refl (s : State) : LinesKept s s := ⟨.of_eq rfl, fun _ => .refl _⟩

theorem trans (a : LinesKept s t) (b : LinesKept t u) : LinesKept s u :=
  ⟨a.notices.trans b.notices, fun p => (a.lines p).trans (b.lines p)⟩

/-- A ripple touches no line. -/
theorem of_ripple (h : Ripple s t) (grows : NoticesGrow s t) : LinesKept s t := by
  refine ⟨grows, fun p => ?_⟩
  have kept := h.ports p
  unfold RippleKept at kept
  rw [kept]
  exact ⟨rfl, rfl, rfl, rfl, rfl, rfl, rfl⟩

theorem setPort {p : Port} {x : PortState} (line : SameLine (s.port p) x) : LinesKept s (s.setPort p x) := by
  refine ⟨.of_eq rfl, fun q => ?_⟩
  by_cases same : q = p
  · subst same
    rw [State.setPort_port]
    exact line
  · rw [State.setPort_port_other _ _ same]
    exact .refl _

end LinesKept

/-! ### Deciding completions (chapter 2) -/

section
variable (s : State) (p : Port) (c : Completion)

theorem finishCompletion_linesKept : LinesKept s (s.finishCompletion c) :=
  .of_ripple (finishCompletion_ripple s c) (by unfold State.finishCompletion; split <;> exact .of_eq rfl)

theorem discardCompletion_linesKept : LinesKept s (s.discardCompletion p c) := by
  have counted : LinesKept s (s.count p .addRxDiscarded) := .setPort ⟨rfl, rfl, rfl, rfl, rfl, rfl, rfl⟩
  exact counted.trans (finishCompletion_linesKept _ c)

theorem offerTo_linesKept (e : QueueEntry) (wide : Bool) : LinesKept s (s.offerTo p e wide).1 := by
  refine .of_ripple (offerTo_ripple s p e wide) ?_
  unfold State.offerTo
  split
  · exact .of_eq (enqueue_notices s p e)
  · exact post_grows s _ _ _ _

theorem offerAll_linesKept (e : QueueEntry) (wide : Bool) (ports : List Port) : ∀ t : State, LinesKept t (t.offerAll e wide ports).1 := by
  induction ports with
  | nil => exact .refl
  | cons q ports ih => exact fun t => (offerTo_linesKept t q e wide).trans (ih _)

theorem endOffer_linesKept {o : State × Bool} (h : LinesKept s o.1) : LinesKept s (State.endOffer o p c) := by
  unfold State.endOffer
  split
  · exact h.trans (finishCompletion_linesKept _ c)
  · exact h.trans (discardCompletion_linesKept _ p c)

theorem reportDamaged_linesKept : LinesKept s (s.reportDamaged p c) := by
  refine .of_ripple (reportDamaged_ripple s p c) ?_
  have late : NoticesGrow s (s.post .lateReply (some p) (some c.address) none) := post_grows s _ _ _ _
  have late' : NoticesGrow s (if c.damage = some .late then s.post .lateReply (some p) (some c.address) none else s) := by
    split
    · exact late
    · exact .of_eq rfl
  unfold State.reportDamaged
  dsimp only
  split
  · split
    · exact closeExchange_grows s _ _
    · split
      · exact late.trans (freeRecord_grows _ p c.address)
      · exact late'
  · exact late'

theorem postDamage_linesKept : LinesKept s (s.postDamage p c) := by
  refine .of_ripple (postDamage_ripple s p c) ?_
  have noted : ∀ k d, NoticesGrow s (s.post k (some p) (some c.address) d) := fun k d => post_grows s _ _ _ _
  unfold State.postDamage
  split
  · exact .of_eq rfl
  · exact .of_eq rfl
  · exact noted _ _
  · exact noted _ _
  · exact .of_eq rfl
  · exact noted _ _
  · exact noted _ _
  · exact noted _ _

theorem handleMiss_linesKept (d : DescNo) : LinesKept s (s.handleMiss p c d) := by
  have discarded := discardCompletion_linesKept s p c
  unfold State.handleMiss
  split
  · exact discarded
  · exact (LinesKept.of_ripple (.post s _ _ _ _) (post_grows s _ _ _ _)).trans (discardCompletion_linesKept _ p c)
  · split
    · exact discarded
    · exact endOffer_linesKept s p c (offerTo_linesKept s .trunk _ _)

theorem handleHit_linesKept (d : DescNo) (e : RouteEntry) (bank : BankId) : LinesKept s (s.handleHit p c d e bank) := by
  unfold State.handleHit
  extract_lets entry o t
  have offered : LinesKept s t := endOffer_linesKept s p c (offerAll_linesKept entry c.wide _ s)
  clear_value t
  split
  · exact offered.trans ⟨.of_eq rfl, fun _ => .refl _⟩
  · exact offered

theorem routeTelegram_linesKept (d : DescNo) : LinesKept s (s.routeTelegram p c d) := by
  unfold State.routeTelegram
  split
  · exact handleHit_linesKept s p c d _ _
  · exact discardCompletion_linesKept s p c
  · exact handleMiss_linesKept s p c d

theorem carryReply_linesKept (d : DescNo) (r : ExchangeRecord) : LinesKept s (s.carryReply p c d r) := by
  have freed := LinesKept.of_ripple (freeRecord_ripple s p c.address) (freeRecord_grows s p c.address)
  exact endOffer_linesKept s p c (freed.trans (offerTo_linesKept _ _ _ _))

theorem admitWhole_linesKept (d : DescNo) : LinesKept s (s.admitWhole p c d) := by
  have routed : LinesKept s (if s.agent.forwarding then s.routeTelegram p c d else s.discardCompletion p c) := by
    split
    · exact routeTelegram_linesKept s p c d
    · exact discardCompletion_linesKept s p c
  unfold State.admitWhole
  split
  · exact ⟨.of_eq rfl, fun _ => .refl _⟩
  · split
    · split
      · exact carryReply_linesKept s p c d _
      · exact routed
    · exact routed

theorem classify_linesKept : LinesKept s (s.classify p c) := by
  have counted : LinesKept s (s.count p .addRxTelegram) := .setPort ⟨rfl, rfl, rfl, rfl, rfl, rfl, rfl⟩
  have damaged := ((counted.trans (reportDamaged_linesKept _ p c)).trans (postDamage_linesKept _ p c)).trans
    (discardCompletion_linesKept _ p c)
  unfold State.classify
  dsimp only
  split
  · exact counted.trans (admitWhole_linesKept _ p c _)
  · exact damaged
  · exact damaged

theorem takeCompletion_linesKept : LinesKept s (s.takeCompletion p) := by
  unfold State.takeCompletion
  split
  · exact .refl s
  · next c rest _ =>
    have taken : LinesKept s (s.setPort p { s.port p with completions := rest }) := .setPort ⟨rfl, rfl, rfl, rfl, rfl, rfl, rfl⟩
    exact taken.trans (classify_linesKept _ p c)

end

theorem decideRaised_linesKept (n : Nat) : ∀ s : State, LinesKept s (State.decideRaised n s) := by
  induction n with
  | zero => exact .refl
  | succ n ih =>
    intro s
    unfold State.decideRaised
    split
    · exact (takeCompletion_linesKept s _).trans (ih _)
    · exact .refl s

/-- A warm restart keeps the notices held and touches no line (R190). -/
theorem warmRestart_linesKept (s : State) : LinesKept s s.warmRestart := by
  rw [warmRestart_eq]
  refine (decideRaised_linesKept s.raisedBound s).trans ⟨.of_eq rfl, fun p => ?_⟩
  rw [warmed_port]
  split <;> exact ⟨rfl, rfl, rfl, rfl, rfl, rfl, rfl⟩

end Sys2Proof.Machine
end

section
/-! PROOFS. The management reply leaves the trunk queue (R111, R152, R153, R187 to R189): a format that waits is installed,
and a restart that waits is performed. -/

namespace Sys2Proof.Machine

/-! ### The reply's leaving -/

/-- The state that a warm restart by command leaves. -/
def State.restarted (s : State) : State := s.warmRestart.post .restarted none none (some 1)

section
variable {s : State}

theorem replyLeft_cold (format : s.trunk.pendingFormat = none) (restart : s.agent.restartPending = some .cold) :
    s.replyLeft = s.coldReset := by
  have installed : s.installPending = s := by
    unfold State.installPending
    rw [format]
  unfold State.replyLeft
  rw [installed]
  dsimp only
  rw [restart]

theorem replyLeft_warm (format : s.trunk.pendingFormat = none) (restart : s.agent.restartPending = some .warm) :
    s.replyLeft = s.restarted := by
  have installed : s.installPending = s := by
    unfold State.installPending
    rw [format]
  unfold State.replyLeft
  rw [installed]
  dsimp only
  rw [restart]
  rfl

theorem formatInstalled_scheduler (f : FormatRecord) (q : Port) : (s.formatInstalled f).scheduler q = s.scheduler q := by
  rcases formatInstalled_cases s f with ⟨-, e⟩ | ⟨-, e⟩ <;> rw [e]
  all_goals
    rw [State.scheduler_def, State.scheduler_def]
    by_cases same : q = .trunk
    · subst same
      rw [State.setPort_port]
    · rw [State.setPort_port_other _ _ same]
      rfl

theorem replyLeft_installs {f : FormatRecord} (format : s.trunk.pendingFormat = some f) (restart : s.agent.restartPending = none)
    (unheld : NoHeadHeld s) : s.replyLeft = s.formatInstalled f := by
  have installed : s.installPending = (s.formatInstalled f).redecide := by
    unfold State.installPending
    rw [format]
    rfl
  have idle : (s.formatInstalled f).redecide = s.formatInstalled f := redecide_idle fun q => by
    rw [formatInstalled_scheduler]
    exact unheld q
  have agent : (s.formatInstalled f).agent.restartPending = none := restart
  unfold State.replyLeft
  rw [installed, idle]
  dsimp only
  rw [agent]

/-- A scheduler that is empty has no head to decide. -/
theorem decideHead_rested {p : Port} (rested : s.scheduler p = emptyScheduler) : s.decideHead p = s := by
  have same : { s.port p with scheduler := { s.scheduler p with phase := .empty, attempts := 0 } } = s.port p := by
    rw [rested]
    change { s.port p with scheduler := emptyScheduler } = s.port p
    rw [← rested]
    rfl
  rw [decideHead_empty (by rw [rested]; rfl), same, State.setPort_same]

end

/-! ### What a restart reads -/

/-- State `x` is `s` in everything a restart reads but the line of the trunk. -/
structure RestartStart (s x : State) : Prop where
  agent : x.agent = s.agent
  routes : x.routes = s.routes
  tickCount : x.exchanges.tickCount = s.exchanges.tickCount
  straps : x.straps = s.straps
  pending : x.pending = s.pending
  cells : x.pool.cells = s.pool.cells
  depth : x.trunk.pendingDepth = s.trunk.pendingDepth
  branches : OtherPortsKept .trunk s x
  admin : (x.port .trunk).admin = (s.port .trunk).admin
  lastFault : (x.port .trunk).lastFault = (s.port .trunk).lastFault
  format : (x.port .trunk).format = (s.port .trunk).format

namespace RestartStart
variable {s x t : State}

theorem warm (h : RestartStart s x) (w : RestartedWarm x t) : RestartedWarm s t := by
  obtain ⟨agent, formats, routes, exchanges, pool, ports, straps, pending⟩ := w
  rw [h.agent] at agent
  rw [h.routes] at routes
  rw [h.tickCount] at exchanges
  refine ⟨agent, formats, routes, exchanges, pool, fun p => ?_, straps.trans h.straps, pending.trans h.pending⟩
  have port := ports p
  by_cases same : p = .trunk
  · subst same
    rw [h.admin, h.lastFault, h.format] at port
    exact port
  · rw [h.branches p same] at port
    exact port

theorem plain (h : RestartStart s x) (w : RestartedPlain x t) : RestartedPlain s t := by
  obtain ⟨cells, reports, format, branches⟩ := w
  rw [h.format, h.depth] at format
  rw [h.routes] at reports
  refine ⟨cells.trans h.cells, reports, format, fun p branch => ?_⟩
  rw [← h.branches p branch]
  exact branches p branch

/-- The cold restart, as COLD_RESET performs it on the line that the reply leaves. -/
theorem cold (h : RestartStart s x) : exec (.coldReset s.straps.maddrPin s.straps.tbaudPin)
    (s.setPort .trunk { s.port .trunk with rxPin := (x.port .trunk).rxPin }) = .next x.coldReset := by
  have pins : (s.setPort .trunk { s.port .trunk with rxPin := (x.port .trunk).rxPin }).ports.map PortState.rxPin
      = x.ports.map PortState.rxPin := by
    have b1 : x.ports.b1 = s.ports.b1 := h.branches .b1 nofun
    have b2 : x.ports.b2 = s.ports.b2 := h.branches .b2 nofun
    have b3 : x.ports.b3 = s.ports.b3 := h.branches .b3 nofun
    have b4 : x.ports.b4 = s.ports.b4 := h.branches .b4 nofun
    unfold PerPort.map
    rw [b1, b2, b3, b4]
    rfl
  have run : exec (.coldReset s.straps.maddrPin s.straps.tbaudPin)
      (s.setPort .trunk { s.port .trunk with rxPin := (x.port .trunk).rxPin })
        = .next (State.cold s.straps.maddrPin s.straps.tbaudPin
            ((s.setPort .trunk { s.port .trunk with rxPin := (x.port .trunk).rxPin }).ports.map PortState.rxPin) s.pool.cells s.pending) :=
    rfl
  rw [run, pins]
  unfold State.coldReset
  rw [h.straps, h.cells, h.pending]

end RestartStart

theorem coldReset_rested (s : State) : s.coldReset.scheduler .trunk = emptyScheduler := rfl

theorem restarted_warm (s : State) : RestartedWarm s s.restarted := (warmRestart_restarted s).post _ _ _ _

theorem restarted_breakState (s : State) : s.restarted.trunk.breakState = s.trunk.breakState :=
  (congrArg TrunkState.breakState (warmRestart_trunk s)).trans rfl

theorem restarted_line (s : State) : SameLine (s.port .trunk) (s.restarted.port .trunk) := (warmRestart_linesKept s).lines .trunk

theorem restarted_rested (s : State) : s.restarted.scheduler .trunk = emptyScheduler := by
  have port := ((warmRestart_restarted s).ports .trunk).1
  exact port

theorem restarted_posts (s : State) : ∃ q : NoticeQueue, s.restarted.notices = q.post .restarted none none (some 1)
    ∧ s.notices.records <+: q.records := ⟨_, rfl, (warmRestart_linesKept s).notices⟩

theorem restarted_plain {s x : State} (start : RestartStart s x)
    (none : Port.all.all (fun p => (x.port p).completions.isEmpty) = true) :
    x.restarted.notices = x.notices.post .restarted Option.none Option.none (some 1) ∧ RestartedPlain s x.restarted
      ∧ x.restarted.port .trunk = { (x.port .trunk).warm with format := (x.port .trunk).format.withDepth x.trunk.pendingDepth } := by
  unfold State.restarted
  rw [warmRestart_plain none]
  exact ⟨rfl, start.plain ((warmed_plain x).1.post _ _ _ _), warmed_port x .trunk⟩

end Sys2Proof.Machine
end

section
/-! PROOFS. The reply's leaving with a format that waits (R152, R153), and the obligation about it. -/

namespace Sys2Proof.Machine

/-! ### A pending format taken -/

/-- The trunk takes format `f` and its next head is decided on a line that is not free. -/
structure FormatInForce (f : FormatRecord) (x t : State) : Prop where
  installed : FormatInstalled f x t
  port : t.port .trunk = { x.port .trunk with format := (t.port .trunk).format, scheduler := t.scheduler .trunk }
  queue : (t.scheduler .trunk).queue = (x.scheduler .trunk).queue
  attempts : (x.scheduler .trunk).attempts = 0 → (t.scheduler .trunk).attempts = 0
  abandons : (t.scheduler .trunk).abandons = (x.scheduler .trunk).abandons
  empty : (x.scheduler .trunk).queue = [] → (t.scheduler .trunk).phase = .empty
  waits : (x.scheduler .trunk).queue ≠ [] → (t.scheduler .trunk).phase = .reserved ∨ (t.scheduler .trunk).phase = .headHeld
  breakState : t.trunk.breakState = x.trunk.breakState
  pool : t.pool = x.pool
  exchanges : t.exchanges = x.exchanges
  notices : t.notices = x.notices
  routes : t.routes = x.routes
  agent : t.agent = x.agent
  others : OtherPortsKept .trunk x t

section
variable {s x t : State} {f : FormatRecord}

theorem formatInstalled_installed : FormatInstalled f s (s.formatInstalled f) := by
  rcases formatInstalled_cases s f with ⟨few, e⟩ | ⟨many, e⟩ <;> rw [e]
  · exact ⟨rfl, fun _ => ⟨congrArg PortState.format (State.setPort_port _ _ _), rfl⟩, fun many => absurd few (Nat.not_le.mpr many)⟩
  · exact ⟨rfl, fun few => absurd few (Nat.not_le.mpr many), fun _ => ⟨congrArg PortState.format (State.setPort_port _ _ _), rfl⟩⟩

theorem formatInstalled_port :
    (s.formatInstalled f).port .trunk = { s.port .trunk with format := ((s.formatInstalled f).port .trunk).format } := by
  rcases formatInstalled_cases s f with ⟨-, e⟩ | ⟨-, e⟩
  all_goals
    rw [e, State.setPort_port]

theorem formatInstalled_other {q : Port} (away : q ≠ .trunk) : (s.formatInstalled f).port q = s.port q :=
  State.setPort_port_other _ _ away

/-- What a format's taking is read from: the records, the old overlap depth, and the trunk after it. -/
theorem FormatInstalled.of_same {u v : State} (h : FormatInstalled f x t) (table : x.exchanges = u.exchanges)
    (format : (x.port .trunk).format = (u.port .trunk).format) (trunk : v.trunk = t.trunk)
    (port : (v.port .trunk).format = (t.port .trunk).format) : FormatInstalled f u v := by
  unfold FormatInstalled at h ⊢
  rw [table, format] at h
  rw [trunk, port]
  exact h

theorem replyLeft_formatInForce (format : x.trunk.pendingFormat = some f) (restart : x.agent.restartPending = none)
    (unheld : NoHeadHeld x) (seen : (x.port .trunk).monitor ≠ .released) : FormatInForce f x (x.replyLeft.decideHead .trunk) := by
  have port := formatInstalled_port (s := x) (f := f)
  have scheduler := formatInstalled_scheduler (s := x) f .trunk
  have free : ((x.formatInstalled f).port .trunk).lineFree = false := by
    rw [port]
    exact PortState.lineFree_seen seen
  have others : OtherPortsKept .trunk x (x.formatInstalled f) := fun q away => formatInstalled_other away
  have installed := formatInstalled_installed (s := x) (f := f)
  obtain ⟨breakState, pool, exchanges, notices, routes, agent⟩ : (x.formatInstalled f).trunk.breakState = x.trunk.breakState
      ∧ (x.formatInstalled f).pool = x.pool ∧ (x.formatInstalled f).exchanges = x.exchanges
      ∧ (x.formatInstalled f).notices = x.notices ∧ (x.formatInstalled f).routes = x.routes
      ∧ (x.formatInstalled f).agent = x.agent := ⟨rfl, rfl, rfl, rfl, rfl, rfl⟩
  rw [replyLeft_installs format restart unheld]
  generalize x.formatInstalled f = y at *
  have waits := decideHead_busy free
  have attempt := decideHead_attemptOnly y .trunk
  obtain ⟨trunk, routes', notices', agent', -⟩ := attempt.blocks
  have table : (y.decideHead .trunk).exchanges = y.exchanges := (congrArg State.exchanges waits.port).trans rfl
  have now := congrArg (fun t => State.port t .trunk) waits.port
  rw [State.setPort_port] at now
  have kept : ((y.decideHead .trunk).port .trunk).format = (y.port .trunk).format := (congrArg PortState.format now).trans rfl
  have queue := waits.queue
  have attempts := waits.attempts
  have abandons := waits.abandons
  have empty := waits.empty
  have more := waits.waits
  rw [scheduler] at queue attempts abandons empty more
  refine ⟨installed.of_same rfl rfl trunk kept, ?_, queue, attempts, abandons, empty, more, (congrArg _ trunk).trans breakState,
    attempt.pool.trans pool, table.trans exchanges, notices'.trans notices, routes'.trans routes, agent'.trans agent,
    fun q away => (attempt.others q away).trans (others q away)⟩
  rw [kept]
  refine now.trans ?_
  rw [port]

end

/-! ### The two ways a reply leaves -/

section
variable {s u : State} {e : QueueEntry} {rest : List QueueEntry} {c : Instr}

/-- A reply that has been sent: what a restart reads is as it was. -/
theorem attemptSent_start (s : State) (e : QueueEntry) : RestartStart s (s.attemptSent .trunk e) := by
  have tick : (s.exchanges.afterSent .trunk e.desc).tickCount = s.exchanges.tickCount := by
    unfold ExchangeMonitor.afterSent
    split <;> rfl
  exact ⟨rfl, rfl, tick, rfl, rfl, Pool.dropRef_cells _ _, rfl, fun q away => State.setPort_port_other _ _ away, rfl, rfl, rfl⟩

/-- A reply that has been abandoned: what a restart reads is as it was. -/
theorem headAbandoned_start (seen : CollisionSeen .trunk c s u) (none : s.exchanges.sendingRecord .trunk e.desc = none) :
    RestartStart s (u.headAbandoned .trunk e) := by
  obtain ⟨l, b, rfl⟩ := seen.state
  have state := headAbandoned_none (u := (s.setPort .trunk ((s.port .trunk).withLine l)).withTrunk { s.trunk with breakState := b })
    (p := .trunk) (e := e) none
  rw [state]
  exact ⟨rfl, rfl, rfl, rfl, rfl, Pool.dropRef_cells _ _, rfl, fun q away => (State.setPort_port_other _ _ away).trans (State.setPort_port_other _ _ away), rfl, rfl, rfl⟩

theorem exec_replySent (phase : (s.scheduler .trunk).phase = .onLine) (queue : (s.scheduler .trunk).queue = e :: rest)
    (receiver : (s.port .trunk).receiver = .echo (s.pool.descriptor 0).length) (reply : e.desc = 0) :
    exec (.attemptCompletion .trunk) s = .next ((s.attemptSent .trunk e).replyLeft.decideHead .trunk) := by
  rw [exec_attemptCompletion phase queue (by rw [reply]; exact receiver), completeAttempt_eq, if_pos reply]

/-- The reply leaves by an abandon. -/
theorem exec_replyAbandoned {pos : Nat} (phase : (s.scheduler .trunk).phase = .onLine) (queue : (s.scheduler .trunk).queue = e :: rest)
    (receiver : (s.port .trunk).receiver = .echo pos) (reply : e.desc = 0) (inside : pos < (s.pool.descriptor 0).length)
    (collision : Collision .trunk s e pos c)
    (past : (s.port .trunk).format.retryLimit < (s.scheduler .trunk).attempts + 1)
    (bounded : (s.port .trunk).counters.collisions ≤ 65535) :
    ∃ u, exec c s = .next ((u.headAbandoned .trunk e).replyLeft.decideHead .trunk) ∧ CollisionSeen .trunk c s u := by
  obtain ⟨u, run, seen⟩ := collision_seen phase queue receiver (by rw [reply]; exact inside) collision
  refine ⟨u, ?_, seen⟩
  rw [run, collide_abandons (by rw [seen.port]; exact bounded) (by rw [seen.port, seen.scheduler]; exact past), if_pos reply]
  rfl

theorem attemptSent_unheld (unheld : NoHeadHeld s) : NoHeadHeld (s.attemptSent .trunk e) := by
  intro q
  by_cases same : q = .trunk
  · subst same
    rw [State.scheduler_def, State.attemptSent, State.setPort_port]
    exact nofun
  · rw [State.scheduler_def, State.attemptSent, State.setPort_port_other _ _ same]
    exact unheld q

theorem completions_none {x : State} (same : ∀ q, (x.port q).completions = (s.port q).completions)
    (none : Port.all.all (fun p => (s.port p).completions.isEmpty) = true) :
    Port.all.all (fun p => (x.port p).completions.isEmpty) = true := by
  simp only [same]
  exact none

end

/-! ### The obligation -/

section
variable {s : State} {e : QueueEntry} {rest : List QueueEntry}

/-- A warm restart by the reply that has been sent, with no completion raised. -/
theorem sentRestart_plain (none : Port.all.all (fun p => (s.port p).completions.isEmpty) = true) :
    (s.attemptSent .trunk e).restarted.notices = s.notices.post .restarted Option.none Option.none (some 1)
      ∧ RestartedPlain s (s.attemptSent .trunk e).restarted
      ∧ ((s.attemptSent .trunk e).restarted.port .trunk).transmitter = .rest
      ∧ ((s.port .trunk).counters.txTelegrams ≤ 65535 → ((s.attemptSent .trunk e).restarted.port .trunk).counters =
          { (s.port .trunk).counters with txTelegrams := min 65535 ((s.port .trunk).counters.txTelegrams + 1) }) := by
  obtain ⟨notices, plain, port⟩ := restarted_plain (attemptSent_start s e) none
  have sent : (s.attemptSent .trunk e).port .trunk = (s.port .trunk).sent := State.setPort_port _ _ _
  rw [sent] at port
  refine ⟨notices, plain, (congrArg PortState.transmitter port).trans rfl, fun bounded => ?_⟩
  rw [← bump_eq_min bounded]
  exact (congrArg PortState.counters port).trans rfl

/-- A pending format installed by the reply that has been sent. -/
theorem sentFormat_installed {f : FormatRecord} (reply : e.desc = 0) (queue : (s.scheduler .trunk).queue = e :: rest)
    (format : s.trunk.pendingFormat = some f) (restart : s.agent.restartPending = none)
    (none : s.exchanges.sendingRecord .trunk 0 = none) (unheld : NoHeadHeld s) :
    let t := (s.attemptSent .trunk e).replyLeft.decideHead .trunk
    FormatInstalled f s t ∧ t.trunk.breakState = s.trunk.breakState ∧ (t.scheduler .trunk).queue = rest
      ∧ (rest ≠ [] → (t.scheduler .trunk).phase = .reserved ∨ (t.scheduler .trunk).phase = .headHeld)
      ∧ (t.port .trunk).driverEnable = false ∧ (t.port .trunk).receiver = .idle
      ∧ t.pool = s.pool.dropRef 0 ∧ t.exchanges = s.exchanges ∧ t.notices = s.notices ∧ t.routes = s.routes
      ∧ t.agent = s.agent ∧ OtherPortsKept .trunk s t := by
  have sent : (s.attemptSent .trunk e).port .trunk = (s.port .trunk).sent := State.setPort_port _ _ _
  have taken := replyLeft_formatInForce (x := s.attemptSent .trunk e) format restart (attemptSent_unheld unheld)
    (by rw [sent]; exact PortState.characterEnded_seen (s.port .trunk) 0)
  have table : (s.attemptSent .trunk e).exchanges = s.exchanges := afterSent_none (by rw [reply]; exact none)
  have tail : ((s.attemptSent .trunk e).scheduler .trunk).queue = rest := by
    rw [State.scheduler_def, sent]
    exact congrArg List.tail queue
  have pool : (s.attemptSent .trunk e).pool = s.pool.dropRef 0 := by
    rw [← reply]
    rfl
  have now := taken.port
  rw [sent] at now
  intro t
  refine ⟨taken.installed.of_same table (by rw [sent]; rfl) rfl rfl, taken.breakState, taken.queue.trans tail,
    fun more => taken.waits (tail ▸ more), ?_, ?_, taken.pool.trans pool, taken.exchanges.trans table, taken.notices,
    taken.routes, taken.agent, fun q away => (taken.others q away).trans ((attemptSent_start s e).branches q away)⟩
  · rw [now]
    rfl
  · rw [now]
    rfl

end

section
variable {s u : State} {e : QueueEntry} {rest : List QueueEntry} {c : Instr} {n : Nat}

/-- The state after the abandoned reply has left the queue. -/
theorem replyAbandoned_state (seen : CollisionSeen .trunk c s u) (reply : e.desc = 0)
    (none : s.exchanges.sendingRecord .trunk 0 = none) : u.headAbandoned .trunk e
      = ((u.withPool (s.pool.dropRef 0)).setPort .trunk (u.port .trunk).abandoned).withNotices
          (s.notices.post .txAbandoned (some .trunk) (some e.line) Option.none) := by
  obtain ⟨pool, table, notices, -⟩ := seen.blocks
  rw [headAbandoned_none (by rw [table, reply]; exact none), notices, pool, reply]

theorem replyAbandoned_port (seen : CollisionSeen .trunk c s u) (reply : e.desc = 0)
    (none : s.exchanges.sendingRecord .trunk 0 = none) :
    (u.headAbandoned .trunk e).port .trunk = ((s.port .trunk).withLine (u.port .trunk)).abandoned := by
  rw [replyAbandoned_state seen reply none, ← seen.port]
  rfl

theorem replyAbandoned_line (seen : CollisionSeen .trunk c s u) (reply : e.desc = 0)
    (none : s.exchanges.sendingRecord .trunk 0 = none) : CollisionLine .trunk c s (u.headAbandoned .trunk e) := by
  rw [replyAbandoned_state seen reply none]
  exact seen.line.of_same ⟨rfl, rfl, rfl, rfl, rfl, rfl, rfl⟩ rfl

/-- A warm restart by the reply that has been abandoned, with no completion raised. -/
theorem abandonedRestart_plain (seen : CollisionSeen .trunk c s u) (reply : e.desc = 0)
    (none : s.exchanges.sendingRecord .trunk 0 = none) (receiver : (s.port .trunk).receiver = .echo n)
    (empty : Port.all.all (fun p => (s.port p).completions.isEmpty) = true) :
    (u.headAbandoned .trunk e).restarted.notices
        = (s.notices.post .txAbandoned (some .trunk) (some e.line) Option.none).post .restarted Option.none Option.none (some 1)
      ∧ RestartedPlain s (u.headAbandoned .trunk e).restarted
      ∧ ((u.headAbandoned .trunk e).restarted.port .trunk).transmitter = (s.port .trunk).transmitter.cutShort
      ∧ ((u.headAbandoned .trunk e).restarted.port .trunk).counters =
          { (s.port .trunk).counters with collisions := min 65535 ((s.port .trunk).counters.collisions + 1) } := by
  have start := headAbandoned_start (e := e) seen (by rw [reply]; exact none)
  have trunk := replyAbandoned_port seen reply none
  have notices : (u.headAbandoned .trunk e).notices = s.notices.post .txAbandoned (some .trunk) (some e.line) Option.none := by
    rw [replyAbandoned_state seen reply none]
  generalize u.headAbandoned .trunk e = x at *
  have completions : ∀ q, (x.port q).completions = (s.port q).completions := fun q => by
    by_cases same : q = .trunk
    · subst same
      rw [trunk]
      rfl
    · rw [start.branches q same]
  obtain ⟨posted, plain, port⟩ := restarted_plain start (completions_none completions empty)
  rw [trunk] at port
  refine ⟨posted.trans (by rw [notices]), plain, ?_, ?_⟩
  · rw [port]
    exact Transmitter.cutShort_cutShort _
  · rw [port]
    unfold PortState.warm
    rw [show ((s.port .trunk).withLine (u.port .trunk)).abandoned.receiver = .echo n from receiver]
    rfl

/-- A pending format installed by the reply that has been abandoned. -/
theorem abandonedFormat_installed {f : FormatRecord} (seen : CollisionSeen .trunk c s u) (reply : e.desc = 0)
    (none : s.exchanges.sendingRecord .trunk 0 = none) (queue : (s.scheduler .trunk).queue = e :: rest)
    (format : s.trunk.pendingFormat = some f) (restart : s.agent.restartPending = Option.none) (unheld : NoHeadHeld s) :
    let t := (u.headAbandoned .trunk e).replyLeft.decideHead .trunk
    FormatInstalled f s t ∧ CollisionLine .trunk c s t
      ∧ (t.scheduler .trunk).queue = rest
      ∧ (rest = [] → (t.scheduler .trunk).phase = .empty)
      ∧ (rest ≠ [] → (t.scheduler .trunk).phase = .reserved ∨ (t.scheduler .trunk).phase = .headHeld)
      ∧ (t.scheduler .trunk).attempts = 0 ∧ (t.scheduler .trunk).abandons = min 15 ((s.scheduler .trunk).abandons + 1)
      ∧ (t.port .trunk).transmitter = (s.port .trunk).transmitter.cutShort ∧ (t.port .trunk).admin = (s.port .trunk).admin
      ∧ (t.port .trunk).counters = { (s.port .trunk).counters with
          collisions := min 65535 ((s.port .trunk).counters.collisions + 1) }
      ∧ t.pool = s.pool.dropRef 0 ∧ t.exchanges = s.exchanges
      ∧ t.notices = s.notices.post .txAbandoned (some .trunk) (some e.line) Option.none
      ∧ t.routes = s.routes ∧ t.agent = s.agent ∧ OtherPortsKept .trunk s t := by
  have start := headAbandoned_start (e := e) seen (by rw [reply]; exact none)
  have line := replyAbandoned_line seen reply none
  have port := replyAbandoned_port seen reply none
  have state := replyAbandoned_state seen reply none
  obtain ⟨-, table, -, -, -, trunk⟩ := seen.blocks
  obtain ⟨pool, exchanges, notices, waiting⟩ : (u.headAbandoned .trunk e).pool = s.pool.dropRef 0
      ∧ (u.headAbandoned .trunk e).exchanges = s.exchanges
      ∧ (u.headAbandoned .trunk e).notices = s.notices.post .txAbandoned (some .trunk) (some e.line) Option.none
      ∧ (u.headAbandoned .trunk e).trunk.pendingFormat = s.trunk.pendingFormat := by
    rw [state]
    exact ⟨rfl, table, rfl, (congrArg TrunkState.pendingFormat trunk).trans rfl⟩
  generalize u.headAbandoned .trunk e = x at *
  have scheduler : x.scheduler .trunk
      = { s.scheduler .trunk with
          queue := rest, phase := .empty, attempts := 0, backoffGap := 0, abandons := min 15 ((s.scheduler .trunk).abandons + 1) } := by
    have tail : rest = (s.scheduler .trunk).queue.tail := by rw [queue, List.tail_cons]
    rw [State.scheduler_def, port, tail]
    rfl
  have held : NoHeadHeld x := fun q => by
    by_cases same : q = .trunk
    · subst same
      rw [scheduler]
      exact nofun
    · rw [State.scheduler_def, start.branches q same]
      exact unheld q
  have taken := replyLeft_formatInForce (x := x) (waiting.trans format) (by rw [start.agent]; exact restart) held line.2.1
  have now := taken.port
  have queue' := taken.queue
  have attempts := taken.attempts
  have abandons := taken.abandons
  have empty := taken.empty
  have more := taken.waits
  rw [scheduler] at queue' attempts abandons empty more
  have same : SameLine (x.port .trunk) ((x.replyLeft.decideHead .trunk).port .trunk) := by
    rw [now]
    exact ⟨rfl, rfl, rfl, rfl, rfl, rfl, rfl⟩
  rw [port] at now
  intro t
  refine ⟨taken.installed.of_same exchanges start.format rfl rfl, line.of_same same taken.breakState, queue', empty, more,
    attempts rfl, abandons, ?_, ?_, ?_, taken.pool.trans pool, taken.exchanges.trans exchanges, taken.notices.trans notices,
    taken.routes.trans start.routes, taken.agent.trans start.agent, fun q away => (taken.others q away).trans (start.branches q away)⟩
  all_goals
    rw [now]
    rfl

end

/-- Settles O20: the reply leaves by either way, and what waited for it follows. -/
theorem replyLeavingRestarts : Obligations.ReplyLeavingRestarts := by
  refine ⟨fun s e rest phase queue receiver reply => ?_,
    fun s e rest pos c phase queue reply receiver inside collision past none bounded => ?_⟩
  · have run := exec_replySent phase queue receiver reply
    have start := attemptSent_start s e
    refine ⟨fun format restart => ?_, fun format restart => ?_, fun f format restart none unheld => ?_⟩
    · rw [replyLeft_cold (s := s.attemptSent .trunk e) format restart, decideHead_rested (coldReset_rested _)] at run
      have cold := start.cold
      have pin : ((s.attemptSent .trunk e).port .trunk).rxPin = (s.port .trunk).rxPin := rfl
      have line : s.setPort .trunk { s.port .trunk with rxPin := (s.port .trunk).rxPin } = s := State.setPort_same s .trunk
      rw [pin, line] at cold
      exact ⟨_, run, cold⟩
    · rw [replyLeft_warm (s := s.attemptSent .trunk e) format restart, decideHead_rested (restarted_rested _)] at run
      exact ⟨_, run, start.warm (restarted_warm _), restarted_breakState (s.attemptSent .trunk e), restarted_posts _, sentRestart_plain⟩
    · exact ⟨_, run, sentFormat_installed reply queue format restart none unheld⟩
  · obtain ⟨u, run, seen⟩ := exec_replyAbandoned phase queue receiver reply inside collision past bounded
    have start := headAbandoned_start (e := e) seen (by rw [reply]; exact none)
    have state := replyAbandoned_state seen reply none
    have port := replyAbandoned_port seen reply none
    have line := replyAbandoned_line seen reply none
    have trunk : (u.headAbandoned .trunk e).trunk = { s.trunk with breakState := u.trunk.breakState } := by
      rw [state]
      exact seen.blocks.2.2.2.2.2
    refine ⟨fun format restart => ?_, fun format restart => ?_, fun f format restart unheld => ?_⟩
    · rw [replyLeft_cold (by rw [trunk]; exact format) (by rw [start.agent]; exact restart), decideHead_rested (coldReset_rested _)] at run
      exact ⟨_, run, start.cold, fun missing => (line.2.2.1 missing).2.2.1, fun v m pb err report => (line.2.2.2 v m pb err report).2.1⟩
    · rw [replyLeft_warm (by rw [trunk]; exact format) (by rw [start.agent]; exact restart), decideHead_rested (restarted_rested _)] at run
      refine ⟨_, run, start.warm (restarted_warm _), line.of_same (restarted_line _) (restarted_breakState _), ?_,
        abandonedRestart_plain seen reply none receiver⟩
      have posts := restarted_posts (u.headAbandoned .trunk e)
      rw [show (u.headAbandoned .trunk e).notices = s.notices.post .txAbandoned (some .trunk) (some e.line) Option.none by rw [state]] at posts
      exact posts
    · exact ⟨_, run, abandonedFormat_installed seen reply none queue format restart unheld⟩

end Sys2Proof.Machine
end
